-- ==== Sys2Proof/Word.lean ====
section
/-!
DEFINITION. The word types: the 64-bit lane and register word, the byte, the lane file and the
block buffer as fixed-length vectors (00_scope.md R6, R8; 10_state.md R20, R22).
-/

namespace Sys2Proof

/-- A 64-bit lane or register value, bit 0 least significant (R8). -/
abbrev Word := BitVec 64

/-- A byte. -/
abbrev Byte := BitVec 8

/-- The state matrix `A[0] .. A[24]`, "always exactly 25 lanes" (R20). -/
abbrev Lanes := Vector Word 25

/-- The block buffer `BLK[0] .. BLK[16]` (R22). -/
abbrev Block := Vector Word 17

end Sys2Proof
end

