-- ==== Sys2Proof/Config.lean ====
section
/-!
DEFINITION. What the spec leaves open: the OPEN platform parameters of 00_scope.md R6 and the one
free value, a LANE read while BUSY = 1 (20_memory.md R43). Each is opaque: nothing can be proved of
its value.
-/

namespace Sys2Proof

/-- KECCAK_BASE, the window's platform byte address: an OPEN parameter (R40, R58, U2). -/
opaque Config.keccakBase : Nat

/-- T_STEP, the real time of one engine step in a unit of the platform's choosing: an OPEN
parameter no functional rule uses (R250, U3). -/
opaque Config.tStep : Nat

/-- N_INSTANCES, the number of engines on a platform: an OPEN parameter (R211, U4). -/
opaque Config.nInstances : Nat

/-- The value returned by the `k`-th LANE read that stream `j` answers while BUSY = 1: "a free 64-bit
draw per read, under no law" (R43, U1). Every instance of a platform draws from a stream of its own, so
no two reads are bound by a law (R211, D23). Free value, assumption log 3. -/
opaque Config.freeLaneRead (j k : Nat) : Word

end Sys2Proof
end

