-- ==== Sys2Proof/Syntax.lean ====
section
/-!
DEFINITION. The commands: one constructor per row of spec/opcode_table.json (30_encoding.md R73).
-/

namespace Sys2Proof

/-- A command word's meaning as syntax. There are no register fields: the lane file, the block
buffer and CONFIG are implicit operands of every command (R71). Operands are unsigned integers taken
directly from their field (R72); the field widths are checked by `Instr.wf`. -/
inductive Instr where
  /-- OP 0x0, R161. -/
  | nop
  /-- OP 0x1, R162: the requested output length in bits. -/
  | init (outBits : Nat)
  /-- OP 0x2, R163. -/
  | absorb
  /-- OP 0x3, R164: the number of message bytes in BLK. -/
  | final (len : Nat)
  /-- OP 0x4, R120. -/
  | permute
  /-- OP 0x5, R121: the 0-indexed round index. -/
  | round (ridx : Nat)
deriving DecidableEq, Repr

end Sys2Proof
end

