-- ==== Sys2Proof/WellFormed.lean ====
section
/-!
DEFINITION. When a command fits its encoding: each operand fits its field (30_encoding.md R71, R72).
The ranges a command itself checks (R162, R164, R121) are not checked here: `INIT 257` is a legal
encoding.
-/

namespace Sys2Proof

/-- Every operand fits its field: OUTBITS is 16 bits wide, LEN and RIDX are 8 bits wide (R71). -/
def Instr.wf : Instr → Bool
  | .nop => true
  | .init outBits => decide (outBits < 2 ^ 16)
  | .absorb => true
  | .final len => decide (len < 2 ^ 8)
  | .permute => true
  | .round ridx => decide (ridx < 2 ^ 8)

end Sys2Proof
end

