-- ==== Sys2Proof/Decode.lean ====
section
/-!
DEFINITION. Command decoding and encoding (30_encoding.md R70 to R75), the opcode table of R73 as
data, and the host's entry point `decodeTableWord`.
-/

namespace Sys2Proof

/-- `w[hi:lo]`, "the unsigned field of bits hi down to lo" (R8). -/
def field (w : Word) (hi lo : Nat) : Nat := (w.toNat >>> lo) % 2 ^ (hi + 1 - lo)

/-- Why a command word is illegal (R74). Both are reported as code 5. -/
inductive Illegal where
  /-- OP = 0x6 .. 0xF. -/
  | reservedOpcode (op : Nat)
  /-- OP = 0x0 .. 0x5 with a nonzero reserved bit. -/
  | reservedBits
deriving DecidableEq, Repr

/-- The `case op of` of R70, after its BUSY test: total on every 64-bit word. -/
def decode (w : Word) : Except Illegal Instr :=
  match field w 3 0 with
  | 0 => if field w 63 4 ≠ 0 then .error .reservedBits else .ok .nop
  | 1 =>
    if field w 15 4 ≠ 0 ∨ field w 63 32 ≠ 0 then .error .reservedBits
    else .ok (.init (field w 31 16))
  | 2 => if field w 63 4 ≠ 0 then .error .reservedBits else .ok .absorb
  | 3 =>
    if field w 7 4 ≠ 0 ∨ field w 63 16 ≠ 0 then .error .reservedBits
    else .ok (.final (field w 15 8))
  | 4 => if field w 63 4 ≠ 0 then .error .reservedBits else .ok .permute
  | 5 =>
    if field w 7 4 ≠ 0 ∨ field w 63 16 ≠ 0 then .error .reservedBits
    else .ok (.round (field w 15 8))
  | op => .error (.reservedOpcode op)

/-- An unsigned operand placed with its bit 0 at bit `lo` of the word (R71). -/
def placeField (v lo : Nat) : Word := BitVec.ofNat 64 v <<< lo

/-- The command word of a command that is well-formed (for another, see assumption log 14): the row's match value with the operand in its field
(R71, R73). -/
def encode : Instr → Word
  | .nop => 0x0000000000000000#64
  | .init outBits => 0x0000000000000001#64 ||| placeField outBits 16
  | .absorb => 0x0000000000000002#64
  | .final len => 0x0000000000000003#64 ||| placeField len 8
  | .permute => 0x0000000000000004#64
  | .round ridx => 0x0000000000000005#64 ||| placeField ridx 8

/-- A row of the opcode map: a word `w` selects it when `w & mask = pattern` (R73, where the pattern
is called `match`). -/
structure OpcodeRow where
  mnemonic : String
  pattern : Word
  mask : Word
deriving DecidableEq, Repr

/-- `w & mask = match` (R73). -/
def OpcodeRow.selects (row : OpcodeRow) (w : Word) : Bool := w &&& row.mask == row.pattern

/-- The opcode map of R73. -/
def opcodeTable : List OpcodeRow :=
  [⟨"NOP", 0x0000000000000000#64, 0xFFFFFFFFFFFFFFFF#64⟩,
   ⟨"INIT", 0x0000000000000001#64, 0xFFFFFFFF0000FFFF#64⟩,
   ⟨"ABSORB", 0x0000000000000002#64, 0xFFFFFFFFFFFFFFFF#64⟩,
   ⟨"FINAL", 0x0000000000000003#64, 0xFFFFFFFFFFFF00FF#64⟩,
   ⟨"PERMUTE", 0x0000000000000004#64, 0xFFFFFFFFFFFFFFFF#64⟩,
   ⟨"ROUND", 0x0000000000000005#64, 0xFFFFFFFFFFFF00FF#64⟩]

/-- The mnemonic of a command (R73, R80). -/
def mnemonicOf : Instr → String
  | .nop => "NOP"
  | .init _ => "INIT"
  | .absorb => "ABSORB"
  | .final _ => "FINAL"
  | .permute => "PERMUTE"
  | .round _ => "ROUND"

/-- The row of R73 a command is encoded by. -/
def rowOf (i : Instr) : Option OpcodeRow :=
  opcodeTable.find? fun row => row.mnemonic == mnemonicOf i

/-- The command the decoder reads from the word whose low `nbits` bits are those of `w` and whose
other bits are 0. A command is one 64-bit register value, so no byte order arises (R53, R71). -/
def decodeTableWord (nbits w : Nat) : Option Instr :=
  match decode (BitVec.ofNat 64 (w % 2 ^ nbits)) with
  | .ok i => some i
  | .error _ => none

end Sys2Proof
end

