-- ==== Sys2Proof/Machine/State.lean ====
section
/-!
DEFINITION. The state of the machine as plain data: the engine's registers (10_state.md R20 to R32),
the host agent's remaining statements and named values (00_scope.md R7; 30_encoding.md R81, R82),
the schedule, and the stream and counter of free draws. `State.reset` is 70_reset_and_hazards.md R230.
-/

namespace Sys2Proof.Machine

/-- STATUS.SPH (R24, R25). The field value 3 "is never held", so it has no constructor (U9). -/
inductive Phase where
  | unconfigured
  | absorbing
  | squeezing
deriving DecidableEq, Repr

/-- STATUS.ERR (R200, R201). Codes 7 to 15 "are never written", so they have no constructor (U10). -/
inductive ErrCode where
  | ok
  | invalidParameter
  | badSequence
  | badLength
  | badRound
  | illegalCommand
  | busy
deriving DecidableEq, Repr

/-- The hidden PEND: the command whose rounds are in progress (R28). -/
inductive Pend where
  | none
  | absorb
  | final
  | permute
  | round
deriving DecidableEq, Repr

/-- Whose turn a step is: one of the two agents of R7, or the external reset event of R230. -/
inductive Turn where
  | host
  | engine
  | reset
deriving DecidableEq, Repr

/-- The names a host program gives to the values it reads (R81): `s` of WAIT and CHECK and `d<i>` of
READDIGEST (R82), or a name of its own. -/
inductive HostVar where
  | s
  | d (i : Nat)
  | named (name : String)
deriving DecidableEq, Repr

/-- A statement of the HOST agent. `wr` and `rd` are MemWrite and MemRead at byte offset `off` of the
window with a width in bytes (R11, R42, R81); `wait` and `check` are the pseudo-instructions of R82,
whose branches test a STATUS read. -/
inductive HostStmt where
  | wr (width off : Nat) (value : Word)
  | rd (var : HostVar) (width off : Nat)
  | wait
  | check
deriving DecidableEq, Repr

/-- The machine: one engine instance, the host that drives it, and the schedule of the two. -/
@[ext]
structure State where
  /-- The lane file `A[0] .. A[24]` (R20). -/
  lanes : Lanes
  /-- The block buffer `BLK[0] .. BLK[16]` (R22). -/
  blk : Block
  /-- CONFIG.OUTBITS (R23). -/
  outBits : BitVec 16
  /-- CONFIG.RATE in bytes (R23). -/
  rate : BitVec 8
  /-- STATUS.BUSY (R24). -/
  busy : Bool
  /-- STATUS.SPH (R24, R25). -/
  sph : Phase
  /-- STATUS.ERR (R24, R200). -/
  err : ErrCode
  /-- STATUS.RCNT, 0..23 (R24). -/
  rcnt : Fin 24
  /-- The hidden PEND (R28). -/
  pend : Pend
  /-- The hidden REND, 0..23 (R28). -/
  rend : Fin 24
  /-- The statements the HOST agent has still to perform, in its program order (R54). -/
  program : List HostStmt
  /-- The values the host has read and named, newest first (R81). -/
  observed : List (HostVar × Word)
  /-- The host program took its `goto error` branch (R82, CHECK). -/
  hostError : Bool
  /-- The order in which the next turns fall; once it is empty, the engine moves while BUSY = 1 and
  the host otherwise (assumption log 4). -/
  turns : List Turn
  /-- MODEL'S OWN: how many free values have been drawn by LANE reads while BUSY = 1 (U1). -/
  draws : Nat
  /-- MODEL'S OWN: the stream those free values come from, one for each engine instance (U1, R211;
  assumption log 3). -/
  stream : Nat
deriving DecidableEq, Repr

/-- Why the machine stops with a fault. -/
inductive Fault where
  /-- A host access of a width other than 8, at a misaligned or a reserved offset: `raise
  BusError(off)`. Raised by the host's turn only; no engine state changes, and "a model treats it as a
  fault of the host program" (R42, R204, U5). Safe. -/
  | busError (off : Nat)
deriving DecidableEq, Repr

/-- Why the machine gives no next state though nothing faulted. -/
inductive Refusal where
  /-- The instruction has no meaning yet, by its mnemonic. Raised by no arm of this model. Safe. -/
  | notModelled (mnemonic : String)
deriving DecidableEq, Repr

/-- What a step, a command or a host access ends in. -/
abbrev Result := Host.Outcome State Fault Refusal

/-- The machine right after reset: the engine as R230 says; no host statement waiting, nothing
observed and no turn fixed (assumption log 5). -/
def State.reset : State where
  lanes := Vector.replicate 25 0x0000000000000000#64
  blk := Vector.replicate 17 0x0000000000000000#64
  outBits := 0
  rate := 0
  busy := false
  sph := .unconfigured
  err := .ok
  rcnt := 0
  pend := .none
  rend := 0
  program := []
  observed := []
  hostError := false
  turns := []
  draws := 0
  stream := 0

end Sys2Proof.Machine
end

