-- ==== Sys2Proof/Machine/Operands.lean ====
section
/-!
DEFINITION. Operand forms: lane coordinates, rotation, the lane/byte conversion, block-buffer bytes
and the configuration arithmetic (00_scope.md R8 to R10; 20_memory.md R50 to R52; 42_padding.md R144;
43_sponge.md R160).
-/

namespace Sys2Proof.Machine

/-- The index `x + 5*y` of lane `(x, y)` (R10, R21). -/
def laneIndex (x y : Fin 5) : Fin 25 := ⟨x.val + 5 * y.val, by omega⟩

/-- The x coordinate of a lane index (R21). -/
def laneX (i : Fin 25) : Fin 5 := ⟨i.val % 5, by omega⟩

/-- The y coordinate of a lane index (R21). -/
def laneY (i : Fin 25) : Fin 5 := ⟨i.val / 5, by omega⟩

/-- `A[x,y]` (R10). -/
def laneAt (A : Lanes) (x y : Fin 5) : Word := A[laneIndex x y]

/-- The 25 lanes whose lane `(x, y)` is `f x y`. -/
@[irreducible] def gridOf (f : Fin 5 → Fin 5 → Word) : Lanes := Vector.ofFn fun i => f (laneX i) (laneY i)

/-- The all-zero lane file. -/
def zeroLanes : Lanes := Vector.replicate 25 0#64

/-- `rotl64(v, n)` for `n` in 0..63 (R9). -/
def rotl64 (v : Word) (n : Nat) : Word :=
  if n = 0 then v else (v <<< n) ||| (v >>> (64 - n))

/-- Byte `m` of a 64-bit value, `v[8m+7:8m]`; byte 0 is the least significant (R8, R50). -/
def byteOf (v : Word) (m : Nat) : Byte := v.extractLsb' (8 * m) 8

/-- The little-endian 64-bit word at bytes `8w .. 8w+7` of a byte sequence (R51). -/
def wordAtBytes (b : List Byte) (w : Nat) : Word :=
  (List.range 8).foldl (fun acc m => acc ||| ((b.getD (8 * w + m) 0).setWidth 64 <<< (8 * m))) 0#64

/-- `lanes_from_bytes(b)`, one word for each 8 bytes (R51). That bytes past the last multiple of 8, which
R51 excludes, are dropped is the model's choice (assumption log 20). -/
def lanesFromBytes (b : List Byte) : List Word :=
  (List.range (b.length / 8)).map (wordAtBytes b)

/-- `state_bytes(A)`, the 200-byte view of the lane file (R52). -/
@[irreducible] def stateBytes (A : Lanes) : List Byte :=
  List.ofFn fun k : Fin 200 => byteOf (A[k.val / 8]'(by omega)) (k.val % 8)

/-- `blkbyte(k)`, message byte `k` of the block buffer (R22, R144). A position past the buffer, which
no legal rate reaches, reads 0. -/
def blkByte (blk : Block) (k : Nat) : Byte := byteOf (blk.getD (k / 8) 0#64) (k % 8)

/-- The accepted output lengths (R160, R162). -/
def supportedOutBits (bits : Nat) : Bool := bits == 256 || bits == 384 || bits == 512

/-- `rate_of(bits)`, in bytes (R160). -/
def rateOf (bits : Nat) : Nat := 200 - bits / 4

/-- `capacity_of(bits)`, in bits (R160). -/
def capacityOf (bits : Nat) : Nat := 2 * bits

/-- `outbytes_of(bits)` (R160). -/
def outBytesOf (bits : Nat) : Nat := bits / 8

/-- The number of lanes of the rate portion, RATE/8 (R21). -/
def rateLanes (s : State) : Nat := s.rate.toNat / 8

end Sys2Proof.Machine
end

