-- ==== Sys2Proof/Machine/Flags.lean ====
section
/-!
DEFINITION. The status indicators: the field values of STATUS, the STATUS and CONFIG words a host reads
(10_state.md R23, R24), and the writes of STATUS.ERR that accept or reject a command (60_exceptions.md
R200 to R202). There are no arithmetic flags (R30).
-/

namespace Sys2Proof.Machine

/-- The 2-bit value of STATUS.SPH (R24). -/
def Phase.code : Phase → Nat
  | .unconfigured => 0
  | .absorbing => 1
  | .squeezing => 2

/-- The 4-bit value of STATUS.ERR (R201). -/
def ErrCode.code : ErrCode → Nat
  | .ok => 0
  | .invalidParameter => 1
  | .badSequence => 2
  | .badLength => 3
  | .badRound => 4
  | .illegalCommand => 5
  | .busy => 6

/-- The STATUS word: BUSY [0], SPH [2:1], ERR [7:4], RCNT [12:8], every other bit 0 (R24, U8). -/
def statusWord (s : State) : Word :=
  BitVec.ofNat 64 s.busy.toNat ||| (BitVec.ofNat 64 s.sph.code <<< 1) |||
    (BitVec.ofNat 64 s.err.code <<< 4) ||| (BitVec.ofNat 64 s.rcnt.val <<< 8)

/-- The CONFIG word: OUTBITS [15:0], RATE [23:16], every other bit 0 (R23, U8). -/
def configWord (s : State) : Word :=
  s.outBits.setWidth 64 ||| (s.rate.setWidth 64 <<< 16)

/-- Acceptance of a command: `STATUS.ERR <- 0` (R70, R200). -/
def accept (s : State) : State := { s with err := .ok }

/-- `raise CmdRejected(code)`: "it writes STATUS.ERR <- code and changes nothing else" (R11, R202).
The shared operation by which every error of the engine is taken; it is no trap (R207). -/
def cmdRejected (code : ErrCode) (s : State) : State := { s with err := code }

end Sys2Proof.Machine
end

