-- ==== Sys2Proof/Machine/Ops.lean ====
section
/-!
DEFINITION. The operations the meanings share: the BUSY test (30_encoding.md R70), the start of a
command's rounds (41_permutation.md R130), the XOR of a block into the rate portion (43_sponge.md R163,
R164), the host's writes of one lane or block word (20_memory.md R44, R45), the record of a host read
(30_encoding.md R81) and reset (70_reset_and_hazards.md R230).
-/

namespace Sys2Proof.Machine

/-- The first test of every command: a write while BUSY = 1 is rejected with code 6 (R70, R203). -/
def guardIdle (s : State) (whenIdle : Result) : Result :=
  if s.busy then .next (cmdRejected .busy s) else whenIdle

/-- `StartRounds(p, r0, r1)` (R130). -/
def startRounds (p : Pend) (r0 r1 : Fin 24) (s : State) : State :=
  { s with pend := p, rcnt := r0, rend := r1, busy := true }

/-- `for i in 0 .. n-1: A[i] <- A[i] ^ W[i]`: the other lanes are never touched (R163, R171). -/
@[irreducible] def xorBlock (n : Nat) (W : List Word) (A : Lanes) : Lanes :=
  Vector.ofFn fun i => if i.val < n then A[i] ^^^ W.getD i.val 0#64 else A[i]

/-- Host write of LANE[i] (R44). -/
def writeLane (i : Fin 25) (v : Word) (s : State) : State :=
  if s.busy then cmdRejected .busy s else { s with lanes := s.lanes.set i.val v i.isLt }

/-- Host write of BLK[j] (R45). -/
def writeBlk (j : Fin 17) (v : Word) (s : State) : State :=
  if s.busy then cmdRejected .busy s else { s with blk := s.blk.set j.val v j.isLt }

/-- The host names the value it has read (R81). -/
def observe (var : HostVar) (v : Word) (s : State) : State :=
  { s with observed := (var, v) :: s.observed }

/-- One free value has been drawn (U1). -/
def countDraw (s : State) : State := { s with draws := s.draws + 1 }

/-- Reset: every piece of the ENGINE's state takes its reset value "whatever was in progress" (R230).
The host's statements, what it has read, the schedule and the free draws are not engine state. -/
def resetEngine (s : State) : State :=
  { State.reset with
    program := s.program, observed := s.observed, hostError := s.hostError,
    turns := s.turns, draws := s.draws, stream := s.stream }

end Sys2Proof.Machine
end

