-- ==== Sys2Proof/Machine/Permutation.lean ====
section
/-!
DEFINITION. The permutation engine: the constant tables and their generators, the five step mappings,
the round, Keccak-f[1600] and the commands PERMUTE and ROUND (41_permutation.md R100 to R121).
-/

namespace Sys2Proof.Machine

/-- The round constants RC[0..23] (R100). -/
def roundConstants : Vector Word 24 := #v[
  0x0000000000000001#64, 0x0000000000008082#64, 0x800000000000808A#64, 0x8000000080008000#64,
  0x000000000000808B#64, 0x0000000080000001#64, 0x8000000080008081#64, 0x8000000000008009#64,
  0x000000000000008A#64, 0x0000000000000088#64, 0x0000000080008009#64, 0x000000008000000A#64,
  0x000000008000808B#64, 0x800000000000008B#64, 0x8000000000008089#64, 0x8000000000008003#64,
  0x8000000000008002#64, 0x8000000000000080#64, 0x000000000000800A#64, 0x800000008000000A#64,
  0x8000000080008081#64, 0x8000000000008080#64, 0x0000000080000001#64, 0x8000000080008008#64]

/-- The rotation offsets ROTR[0..24], by lane index (R101). -/
def rotationOffsets : Vector Nat 25 := #v[
  0, 1, 62, 28, 27,
  36, 44, 6, 55, 20,
  3, 10, 43, 25, 39,
  41, 45, 15, 21, 8,
  18, 2, 61, 56, 14]

/-- The offset of lane `(x, y)`, `ROTR[x + 5*y]` (R101). -/
def rotationAt (x y : Fin 5) : Nat := rotationOffsets[laneIndex x y]

/-- One step of the 8-bit LFSR with feedback polynomial x^8 + x^6 + x^5 + x^4 + 1 (R102 (a)). -/
def lfsrStep (v : Byte) : Byte := if v.msb then (v <<< 1) ^^^ 0x71#8 else v <<< 1

/-- `rc(t)`: bit 0 of the LFSR's state after `t` steps from 1 (R102 (a)). -/
def lfsrBit (t : Nat) : Bool := (lfsrStep^[t] 1#8).getLsbD 0

/-- `RC[r]` as R102 (a) computes it: bit `2^j - 1` is `rc(j + 7r)` for j = 0..6. -/
def roundConstantByLfsr (r : Nat) : Word :=
  (List.range 7).foldl
    (fun acc j => if lfsrBit (j + 7 * r) then acc ||| (1#64 <<< (2 ^ j - 1)) else acc) 0#64

/-- The walk of R102 (b): at time `t` from `(1, 0)`, moving `(x, y)` to `(y, (2x + 3y) mod 5)`. -/
def rotationWalk (t : Nat) : Fin 5 × Fin 5 := (fun p => (p.2, 2 * p.1 + 3 * p.2))^[t] (1, 0)

/-- The offset R102 (b) gives at time `t` of the walk. -/
def rotationByWalk (t : Nat) : Nat := (t + 1) * (t + 2) / 2 % 64

/-- `C[x]` of theta (R103). -/
def thetaC (A : Lanes) : Vector Word 5 :=
  Vector.ofFn fun x => laneAt A x 0 ^^^ laneAt A x 1 ^^^ laneAt A x 2 ^^^ laneAt A x 3 ^^^ laneAt A x 4

/-- `D[x]` of theta (R103). -/
def thetaD (C : Vector Word 5) : Vector Word 5 :=
  Vector.ofFn fun x => C[x + 4] ^^^ rotl64 C[x + 1] 1

/-- Theta (R103); all of C is computed before any lane is updated. -/
def theta (A : Lanes) : Lanes :=
  let D := thetaD (thetaC A)
  gridOf fun x y => laneAt A x y ^^^ D[x]

/-- Rho alone (R105). -/
def rho (A : Lanes) : Lanes := gridOf fun x y => rotl64 (laneAt A x y) (rotationAt x y)

/-- Pi alone: `B[y, (2x + 3y) mod 5] <- R[x,y]` (R105), read at its destination `(u, v)`, whose source
is `x = (u + 3v) mod 5`, `y = u`. -/
def pi (R : Lanes) : Lanes := gridOf fun u v => laneAt R (u + 3 * v) u

/-- Rho and pi fused, the source's form (R104), read at the destination `(u, v)`. -/
def rhoPi (A : Lanes) : Lanes :=
  gridOf fun u v => rotl64 (laneAt A (u + 3 * v) u) (rotationAt (u + 3 * v) u)

/-- Chi; every output reads only B (R106). -/
def chi (B : Lanes) : Lanes :=
  gridOf fun x y => laneAt B x y ^^^ (~~~(laneAt B (x + 1) y) &&& laneAt B (x + 2) y)

/-- Iota: `A[0,0] <- A[0,0] ^ RC[r]` (R107). -/
def iota (r : Fin 24) (A : Lanes) : Lanes := A.set 0 (A[0] ^^^ roundConstants[r])

/-- The round, `Iota(Chi(RhoPi(Theta(A))), r)` (R108). -/
@[irreducible] def rnd (A : Lanes) (r : Fin 24) : Lanes := iota r (chi (rhoPi (theta A)))

/-- Keccak-f[1600]: rounds 0, 1, ..., 23 in order (R109). -/
@[irreducible] def keccakF (A : Lanes) : Lanes := (List.finRange 24).foldl rnd A

/-- PERMUTE (R120). -/
def execPermute (s : State) : Result :=
  guardIdle s (.next (startRounds .permute 0 23 (accept s)))

/-- ROUND (R121). -/
def execRound (ridx : Nat) (s : State) : Result :=
  guardIdle s
    (if h : ridx ≤ 23 then
      .next (startRounds .round ⟨ridx, by omega⟩ ⟨ridx, by omega⟩ (accept s))
    else .next (cmdRejected .badRound s))

end Sys2Proof.Machine
end

