-- ==== Sys2Proof/Machine/Engine.lean ====
section
/-!
DEFINITION. The ENGINE agent: one round per engine step while BUSY = 1 (41_permutation.md R131), and
the step counts of 70_reset_and_hazards.md R250.
-/

namespace Sys2Proof.Machine

/-- `RCNT + 1`; RCNT "never wraps" (R27). It is 23 here only in states no run reaches, where it stays
23 (assumption log 6). -/
def nextRound (r : Fin 24) : Fin 24 := ⟨min (r.val + 1) 23, by omega⟩

/-- `A <- Rnd(A, STATUS.RCNT)` (R131). -/
def applyRound (s : State) : State := { s with lanes := rnd s.lanes s.rcnt }

/-- `STATUS.RCNT <- STATUS.RCNT + 1` (R131). -/
def advanceRound (s : State) : State := { s with rcnt := nextRound s.rcnt }

/-- The end of a command's rounds: BUSY falls, a FINAL enters SQUEEZING, RCNT stays (R131). -/
def finishRounds (s : State) : State :=
  { s with
    busy := false, sph := if s.pend = .final then .squeezing else s.sph, pend := .none }

/-- An engine step; without BUSY the engine has none, and nothing changes (R131). -/
def engineStep (s : State) : State :=
  if s.busy then
    if s.rcnt = s.rend then finishRounds (applyRound s) else advanceRound (applyRound s)
  else s

/-- The engine steps a command takes when it is accepted (R250, R133). -/
def engineSteps : Instr → Nat
  | .nop => 0
  | .init _ => 0
  | .absorb => 24
  | .final _ => 24
  | .permute => 24
  | .round _ => 1

/-- The engine steps of the hash of an `n`-byte message at rate `rate` (R250). -/
def hashEngineSteps (n rate : Nat) : Nat := 24 * (n / rate + 1)

/-- The real time of `k` engine steps, in units of T_STEP's unit (R250). -/
def stepsTime (k : Nat) : Nat := k * Config.tStep

end Sys2Proof.Machine
end

