-- ==== Sys2Proof/Machine/Padding.lean ====
section
/-!
DEFINITION. The padding module: the source's pad function on a whole message (42_padding.md R140) and
the padded final block the hardware builds from the block buffer (R144).
-/

namespace Sys2Proof.Machine

/-- The delimiter byte, fixed (R3, R143). -/
def delimiter : Byte := 0x01#8

/-- The terminal XOR byte, fixed (R143). -/
def terminal : Byte := 0x80#8

/-- `pad(input, r)` for `r >= 1` (R140); its value at `r = 0` is the model's choice (assumption log 20). -/
def pad (input : List Byte) (r : Nat) : List Byte :=
  let n := input.length
  let numBlocks := n / r + 1
  let copied := input ++ List.replicate (r * numBlocks - n) 0#8
  (copied.set n delimiter).modify (r * numBlocks - 1) (· ^^^ terminal)

/-- The bytes Q of R144: the first `len` bytes of the block buffer, zeros, the delimiter at `len` and
the terminal XOR at the last position of the rate. -/
def padBytes (blk : Block) (len rate : Nat) : List Byte :=
  let copied := (List.range rate).map fun k => if k < len then blkByte blk k else 0#8
  (copied.set len delimiter).modify (rate - 1) (· ^^^ terminal)

/-- `PadBlock(BLK, LEN, R)` for `LEN < R` at the three rates (R144); its value elsewhere is the model's
choice (assumption log 20). -/
def padBlock (blk : Block) (len rate : Nat) : List Word := lanesFromBytes (padBytes blk len rate)

end Sys2Proof.Machine
end

