-- ==== Sys2Proof/Machine/Sponge.lean ====
section
/-!
DEFINITION. The sponge controller: the commands NOP, INIT, ABSORB and FINAL (43_sponge.md R161 to
R164), the squeezed output (R170), and the source's reference functions (R171, R172).
-/

namespace Sys2Proof.Machine

/-- NOP (R161). -/
def execNop (s : State) : Result := guardIdle s (.next (accept s))

/-- The configuration INIT installs on acceptance (R162). -/
def configure (outBits : Nat) (s : State) : State :=
  { s with
    lanes := zeroLanes, outBits := BitVec.ofNat 16 outBits,
    rate := BitVec.ofNat 8 (rateOf outBits), sph := .absorbing }

/-- INIT (R162). -/
def execInit (outBits : Nat) (s : State) : Result :=
  guardIdle s
    (if supportedOutBits outBits then .next (configure outBits (accept s))
    else .next (cmdRejected .invalidParameter s))

/-- The XOR of a block of words into the rate lanes of the configured rate (R163, R164). -/
def absorbWords (W : List Word) (s : State) : State :=
  { s with lanes := xorBlock (rateLanes s) W s.lanes }

/-- ABSORB (R163). -/
def execAbsorb (s : State) : Result :=
  guardIdle s
    (if s.sph ≠ .absorbing then .next (cmdRejected .badSequence s)
    else .next (startRounds .absorb 0 23 (absorbWords s.blk.toList (accept s))))

/-- FINAL (R164). -/
def execFinal (len : Nat) (s : State) : Result :=
  guardIdle s
    (if s.sph ≠ .absorbing then .next (cmdRejected .badSequence s)
    else if s.rate.toNat ≤ len then .next (cmdRejected .badLength s)
    else .next (startRounds .final 0 23
      (absorbWords (padBlock s.blk len s.rate.toNat) (accept s))))

/-- The squeezed output `state_bytes(A)[0 : CONFIG.OUTBITS/8)`, meaningful when SPH = 2 and BUSY = 0
(R170). -/
def digest (s : State) : List Byte := (stateBytes s.lanes).take (s.outBits.toNat / 8)

/-- Block `b` of a byte sequence cut into pieces of `rate` bytes, `P[b*R : (b+1)*R)` (R171). -/
def blockAt (P : List Byte) (rate b : Nat) : List Byte := (P.drop (b * rate)).take rate

/-- One absorb of the source's driver: XOR the block into the rate lanes and permute (R171). -/
def absorbBlock (rate : Nat) (A : Lanes) (block : List Byte) : Lanes :=
  keccakF (xorBlock (rate / 8) (lanesFromBytes block) A)

/-- `Sponge(P, R, O)`, the source's sponge driver, which "requires len(P) mod R = 0 and O <= R" (R171).
Where that fails the spec gives no value; that a trailing partial block of `P` is then dropped, and that
the output then runs past the rate portion, is the model's choice (assumption log 20). -/
def sponge (P : List Byte) (rate out : Nat) : List Byte :=
  (stateBytes
    ((List.range (P.length / rate)).foldl (fun A b => absorbBlock rate A (blockAt P rate b))
      zeroLanes)).take out

/-- `Hash(bits, m)`, the source's facade (R172). -/
def keccakHash (bits : Nat) (m : List Byte) : Except ErrCode (List Byte) :=
  if supportedOutBits bits then .ok (sponge (pad m (rateOf bits)) (rateOf bits) (bits / 8))
  else .error .invalidParameter

end Sys2Proof.Machine
end

