-- ==== Sys2Proof/Machine/Dispatch.lean ====
section
/-! DEFINITION. The command a decoded word runs: one arm per constructor of Instr. -/

namespace Sys2Proof.Machine

def exec (i : Instr) (s : State) : Host.Outcome State Fault Refusal :=
  match i with
  | .nop => Sys2Proof.Machine.execNop s
  | .init outBits => Sys2Proof.Machine.execInit outBits s
  | .absorb => Sys2Proof.Machine.execAbsorb s
  | .final len => Sys2Proof.Machine.execFinal len s
  | .permute => Sys2Proof.Machine.execPermute s
  | .round ridx => Sys2Proof.Machine.execRound ridx s

end Sys2Proof.Machine
end

