-- ==== Sys2Proof/Machine/Window.lean ====
section
/-!
DEFINITION. The host register window: its map and legal accesses (20_memory.md R40 to R42), and the
host's read and write of each register (R43 to R47), the write of CMD decoding and running a command
(30_encoding.md R70).
-/

namespace Sys2Proof.Machine

/-- The registers of the window (R41). -/
inductive Reg where
  | lane (i : Fin 25)
  | blk (j : Fin 17)
  | cmd
  | status
  | config
deriving DecidableEq, Repr

/-- WINDOW_SIZE, in bytes (R6, R40). -/
def windowSize : Nat := 0x400

/-- The window offset of a register (R41). -/
def regOffset : Reg → Nat
  | .lane i => 8 * i.val
  | .blk j => 0x100 + 8 * j.val
  | .cmd => 0x200
  | .status => 0x208
  | .config => 0x210

/-- The register at a byte offset; misaligned and reserved offsets name none (R41, R42). -/
def regAt (off : Nat) : Option Reg :=
  if off % 8 ≠ 0 then none
  else if h : off / 8 < 25 then some (.lane ⟨off / 8, h⟩)
  else if h : 0x100 ≤ off ∧ (off - 0x100) / 8 < 17 then some (.blk ⟨(off - 0x100) / 8, h.2⟩)
  else if off = 0x200 then some .cmd
  else if off = 0x208 then some .status
  else if off = 0x210 then some .config
  else none

/-- The register a host access reaches: the access is legal only when it is 8 bytes wide at the offset
of a register (R42). -/
def accessReg (width off : Nat) : Option Reg := if width = 8 then regAt off else none

/-- The platform byte address of a window offset (R40). -/
def busAddress (off : Nat) : Nat := Config.keccakBase + off

/-- The window offset of a platform byte address, if the address lies in the window (R40). -/
def offsetOfAddress (addr : Nat) : Option Nat :=
  if Config.keccakBase ≤ addr ∧ addr < Config.keccakBase + windowSize then
    some (addr - Config.keccakBase)
  else none

/-- The value a host read of a register returns: a LANE read while BUSY = 1 is the next free value;
CMD reads 0; every other read is exact in every state (R43, R45, R46, R47). -/
def readReg (r : Reg) (s : State) : Word :=
  match r with
  | .lane i => if s.busy then Config.freeLaneRead s.stream s.draws else s.lanes[i]
  | .blk j => s.blk[j]
  | .cmd => 0#64
  | .status => statusWord s
  | .config => configWord s

/-- The state after a host read: the read itself changes nothing of the engine (R48); a LANE read while
BUSY = 1 has used up one free value. -/
def afterRead (r : Reg) (s : State) : State :=
  match r with
  | .lane _ => if s.busy then countDraw s else s
  | .blk _ => s
  | .cmd => s
  | .status => s
  | .config => s

/-- Host write of CMD: BUSY is tested before the word is decoded; an illegal word is rejected with code
5; a legal one runs (R46, R70, R74). -/
def writeCmd (w : Word) (s : State) : Result :=
  guardIdle s
    (match decode w with
    | .ok i => exec i s
    | .error _ => .next (cmdRejected .illegalCommand s))

/-- Host write of a register; writes to STATUS and CONFIG are ignored (R44 to R47). -/
def writeReg (r : Reg) (v : Word) (s : State) : Result :=
  match r with
  | .lane i => .next (writeLane i v s)
  | .blk j => .next (writeBlk j v s)
  | .cmd => writeCmd v s
  | .status => .next s
  | .config => .next s

end Sys2Proof.Machine
end

