-- ==== Sys2Proof/Machine/HostAgent.lean ====
section
/-!
DEFINITION. The HOST agent: what one turn of it does (00_scope.md R7; 30_encoding.md R81, R82), the
turns of a step, and the host's pseudo-instructions LOADBLK, READDIGEST and HASH as the statements they
expand to (30_encoding.md R82; 43_sponge.md R180).
-/

namespace Sys2Proof.Machine

/-- The host's `goto error`: it performs none of its remaining statements (R82). They are this host's
only; other hosts of a shared instance keep theirs (`stepShared`, assumption log 10). -/
def gotoError (s : State) : State := { s with program := [], hostError := true }

/-- `RD STATUS -> s` (R81, R82). -/
def readStatus (s : State) : State := observe .s (statusWord s) s

/-- One turn of the host: its next statement is performed. An illegal access is the host's fault (R42,
R204). WAIT repeats its STATUS read while bit 0 is 1; CHECK leaves the program when field [7:4] is not
0 (R82). A host with no statement left does nothing. -/
def hostTurn (s : State) : Result :=
  match s.program with
  | [] => .next s
  | .wr width off v :: rest =>
    match accessReg width off with
    | none => .fault (.busError off)
    | some r => writeReg r v { s with program := rest }
  | .rd var width off :: rest =>
    match accessReg width off with
    | none => .fault (.busError off)
    | some r => .next (observe var (readReg r s) (afterRead r { s with program := rest }))
  | .wait :: rest =>
    if field (statusWord s) 0 0 = 1 then .next (readStatus s)
    else .next (readStatus { s with program := rest })
  | .check :: rest =>
    if field (statusWord s) 7 4 ≠ 0 then .next (gotoError (readStatus s))
    else .next (readStatus { s with program := rest })

/-- What a turn does. -/
def takeTurn (t : Turn) (s : State) : Result :=
  match t with
  | .host => hostTurn s
  | .engine => .next (engineStep s)
  | .reset => .next (resetEngine s)

/-- The next turn and the turns after it. Once the schedule is used up the engine moves while BUSY = 1
and the host otherwise, so an engine step that stays enabled is taken (R131, weak fairness). -/
def nextTurn (s : State) : Turn × List Turn :=
  match s.turns with
  | t :: rest => (t, rest)
  | [] => (if s.busy then .engine else .host, [])

/-- One step of the machine: one turn, of the agent whose turn it is (R7, R49). -/
def stepTurn (s : State) : Result := takeTurn (nextTurn s).1 { s with turns := (nextTurn s).2 }

/-- The next turn is the host's, and its next statement writes command word `w` to CMD. -/
def placeCommand (w : Word) (s : State) : State :=
  { s with program := .wr 8 0x200 w :: s.program, turns := .host :: s.turns }

/-- A command statement: a host write of the command's encoding to CMD (R80). -/
def cmdStmt (i : Instr) : HostStmt := .wr 8 (regOffset .cmd) (encode i)

/-- `WR <reg>, <imm64>` (R81). -/
def wrStmt (r : Reg) (v : Word) : HostStmt := .wr 8 (regOffset r) v

/-- `RD <reg> -> <name>` (R81). -/
def rdStmt (r : Reg) (var : HostVar) : HostStmt := .rd var 8 (regOffset r)

/-- The bytes zero-filled to a multiple of 8 (R82, LOADBLK). -/
def zeroFill8 (bytes : List Byte) : List Byte :=
  bytes ++ List.replicate ((8 - bytes.length % 8) % 8) 0#8

/-- `LOADBLK <bytes>` for at most 136 bytes (R82); its expansion of more is the model's choice (assumption
log 20). -/
def loadBlk (bytes : List Byte) : List HostStmt :=
  (lanesFromBytes (zeroFill8 bytes)).zipIdx.map fun p => .wr 8 (0x100 + 8 * p.2) p.1

/-- `READDIGEST` for an output length in bits (R82). -/
def readDigest (outBits : Nat) : List HostStmt :=
  (List.range (outBits / 64)).map fun i => .rd (.d i) 8 (8 * i)

/-- The statements that absorb one full block: `LOADBLK; ABSORB; CHECK; WAIT` (R180). -/
def absorbStmts (block : List Byte) : List HostStmt :=
  loadBlk block ++ [cmdStmt .absorb, .check, .wait]

/-- The statements that absorb the last, partial block: `LOADBLK; FINAL t; CHECK; WAIT` (R180). -/
def finalStmts (tail : List Byte) : List HostStmt :=
  loadBlk tail ++ [cmdStmt (.final tail.length), .check, .wait]

/-- `HASH <outbits>, <message>` (R82): the host program of R180. An output length of 2^16 or more has no INIT
word (R71, D7); that the program then starts with the word its operand spills into is the model's choice
(assumption log 14). -/
def hashStmts (bits : Nat) (m : List Byte) : List HostStmt :=
  [cmdStmt (.init bits), .check] ++
    (List.range (m.length / rateOf bits)).flatMap (fun b => absorbStmts (blockAt m (rateOf bits) b)) ++
    finalStmts (m.drop (m.length / rateOf bits * rateOf bits)) ++
    readDigest bits

end Sys2Proof.Machine
end

