-- ==== Sys2Proof/Machine/Step.lean ====
section
/-!
DEFINITION. One step of the machine, and the placing of a command word where the next step takes it.
-/

namespace Sys2Proof.Machine

/-- One step: one turn of the agent the schedule names (R7). -/
def step (s : State) : Host.Outcome State Fault Refusal := stepTurn s

/-- The state whose very next step is the host's write of the given word to CMD (R46, R57; assumption
log 5). -/
def State.withFetchWord (s : State) (nbits w : Nat) : State :=
  placeCommand (BitVec.ofNat 64 (w % 2 ^ nbits)) s

end Sys2Proof.Machine
end

