-- ==== Sys2Proof/Machine/Platform.lean ====
section
/-!
DEFINITION. More than one agent beside the machine of one engine and one host (60_exceptions.md R211):
several engine instances, each with its own state and its own host, and one instance that several hosts
share.
-/

namespace Sys2Proof.Machine

/-! ### Several instances -/

/-- The `n` engine instances of a platform. -/
abbrev Platform (n : Nat) := Vector State n

/-- The platform of the spec: its number of instances is the OPEN parameter N_INSTANCES. -/
abbrev OpenPlatform := Platform Config.nInstances

/-- The machine as instance `k` of a platform: its free values are those of stream `k`. -/
def asInstance (k : Nat) (s : State) : State := { s with stream := k }

/-- A step of instance `k`: "instances share no state and their accesses do not interact" (R211). Each
instance draws its free LANE reads from its own stream, so the reads of two instances are under no law
either (R43, U1, D23); that there is a stream for each instance is the model's form of it (assumption
log 3 and 11). The model's choices too are that a reset turn resets the instance stepped and no other, and
that an instance that faults or refuses stays as it was (assumption log 11). -/
def stepInstance {n : Nat} (k : Fin n) (p : Platform n) : Platform n :=
  match step (asInstance k.val p[k]) with
  | .next t => p.set k.val t k.isLt
  | .fault _ => p
  | .refused _ => p

/-! ### Several hosts on one instance -/

/-- What is one host's own: its remaining statements, what it has read, and whether it took its
`goto error` branch (R81, R82). -/
structure HostView where
  program : List HostStmt
  observed : List (HostVar × Word)
  hostError : Bool
deriving DecidableEq, Repr

/-- The view of the host that drives the machine. -/
def State.hostView (s : State) : HostView := ⟨s.program, s.observed, s.hostError⟩

/-- The machine with another host at it; nothing of the engine differs. -/
def State.withHost (s : State) (v : HostView) : State :=
  { s with program := v.program, observed := v.observed, hostError := v.hostError }

/-- One engine instance shared by `n` hosts, each with its own view (assumption log 10). The host's
fields of `engine` belong to none of them. -/
structure SharedEngine (n : Nat) where
  engine : State
  hosts : Vector HostView n
deriving DecidableEq, Repr

/-- Whose turn a step of a shared engine is. -/
inductive SharedTurn (n : Nat) where
  | host (h : Fin n)
  | engine
  | reset
deriving DecidableEq, Repr

/-- The shared engine after host `h`'s turn ended in machine state `t`: the engine is `t`'s, host `h`'s
view is `t`'s, and every other host's view is as it was. -/
def SharedEngine.afterHost {n : Nat} (m : SharedEngine n) (h : Fin n) (t : State) : SharedEngine n :=
  { engine := t.withHost m.engine.hostView, hosts := m.hosts.set h.val t.hostView h.isLt }

/-- One step of a shared engine. The hosts "interleave their accesses as 20_memory.md rule R54 says and
the hardware does no locking" (R211): a turn of host `h` is the turn of a sole host with `h`'s view, a
turn of the engine or a reset is the engine's own (that a reset leaves every host is assumption log 9), and
any turn may come next. A bus error is the fault
of the host that made it (R42). -/
def stepShared {n : Nat} (turn : SharedTurn n) (m : SharedEngine n) :
    Host.Outcome (SharedEngine n) Fault Refusal :=
  match turn with
  | .host h =>
    match hostTurn (m.engine.withHost m.hosts[h]) with
    | .next t => .next (m.afterHost h t)
    | .fault f => .fault f
    | .refused r => .refused r
  | .engine => .next { m with engine := engineStep m.engine }
  | .reset => .next { m with engine := resetEngine m.engine }

end Sys2Proof.Machine
end

