-- ==== Sys2Proof/Safety.lean ====
section
/-!
DEFINITION. What counts as a legal state, as a safe run and as a host that respects the busy window, in
the terms the statements use.
-/

namespace Sys2Proof

open Sys2Proof.Machine

/-- The relations between the fields of a state that the rules of 10_state.md and 41_permutation.md
give; they hold at reset and every step keeps them. -/
structure Inv (s : State) : Prop where
  /-- "the pairs are exactly (0, 0), (256, 136), (384, 104), (512, 72)" (R23). -/
  configPair : (s.outBits.toNat, s.rate.toNat) ∈ [(0, 0), (256, 136), (384, 104), (512, 72)]
  /-- CONFIG and SPH leave their reset values together (R25, R162). -/
  phaseConfig : s.sph = .unconfigured ↔ s.outBits = 0
  /-- PEND is NONE exactly when BUSY = 0 (R28). -/
  pendBusy : s.pend = .none ↔ s.busy = false
  /-- RCNT has not passed REND (R27). -/
  roundOrder : s.rcnt ≤ s.rend
  /-- "RCNT stays at REND" once the rounds are done (R131). -/
  idleRound : s.busy = false → s.rcnt = s.rend
  /-- ROUND applies one round (R121). -/
  oneRound : s.pend = .round → s.rcnt = s.rend
  /-- ABSORB, FINAL and PERMUTE end with round 23 (R120, R163, R164). -/
  fullRounds : s.pend = .absorb ∨ s.pend = .final ∨ s.pend = .permute → s.rend = 23
  /-- The rounds of ABSORB and FINAL run in ABSORBING (R163, R164). -/
  spongeRounds : s.pend = .absorb ∨ s.pend = .final → s.sph = .absorbing

/-- No reset event falls among the turns to come. -/
def NoReset (s : State) : Prop := Turn.reset ∉ s.turns

/-- Whether a word written to CMD while idle can set BUSY: it decodes to a command with rounds. -/
def startsRounds (w : Word) : Bool :=
  match decode w with
  | .ok i => engineSteps i != 0
  | .error _ => false

/-- Whether the statements respect the busy window of R240 when BUSY may be 1 now (`mayBeBusy`): no
CMD, LANE or BLK write and no LANE read between a command with rounds and the next WAIT. -/
def respectsBusy : Bool → List HostStmt → Bool
  | _, [] => true
  | mayBeBusy, .wr width off v :: rest =>
    match accessReg width off with
    | some .cmd => !mayBeBusy && respectsBusy (startsRounds v) rest
    | some (.lane _) => !mayBeBusy && respectsBusy mayBeBusy rest
    | some (.blk _) => !mayBeBusy && respectsBusy mayBeBusy rest
    | some .status => respectsBusy mayBeBusy rest
    | some .config => respectsBusy mayBeBusy rest
    | none => respectsBusy mayBeBusy rest
  | mayBeBusy, .rd _ width off :: rest =>
    match accessReg width off with
    | some (.lane _) => !mayBeBusy && respectsBusy mayBeBusy rest
    | some _ => respectsBusy mayBeBusy rest
    | none => respectsBusy mayBeBusy rest
  | _, .wait :: rest => respectsBusy false rest
  | mayBeBusy, .check :: rest => respectsBusy mayBeBusy rest

/-- The host's remaining statements respect the busy window from this state on (R240). -/
def Respectful (s : State) : Prop := respectsBusy s.busy s.program = true

/-- The next turn is the host's and performs the statement `st`; `s0` is the state with that turn and
that statement used up and nothing else changed. -/
def HostPerforms (s : State) (st : HostStmt) (s0 : State) : Prop :=
  (nextTurn s).1 = .host ∧
    ∃ rest, s.program = st :: rest ∧ s0 = { s with program := rest, turns := (nextTurn s).2 }

/-- The next turn is `t`; `s0` is the state with that turn used up. -/
def TakesTurn (s : State) (t : Turn) (s0 : State) : Prop :=
  (nextTurn s).1 = t ∧ s0 = { s with turns := (nextTurn s).2 }

/-- The two states agree on every piece of the engine's state, hidden state included. -/
def SameEngine (s t : State) : Prop :=
  t.lanes = s.lanes ∧ t.blk = s.blk ∧ t.outBits = s.outBits ∧ t.rate = s.rate ∧ t.busy = s.busy ∧
    t.sph = s.sph ∧ t.err = s.err ∧ t.rcnt = s.rcnt ∧ t.pend = s.pend ∧ t.rend = s.rend

/-- An offset of the window at which no register stands: the reserved ranges of R41, and beyond them
whatever lies outside the window. -/
def ReservedOffset (off : Nat) : Prop :=
  (0x0C8 ≤ off ∧ off ≤ 0x0FF) ∨ (0x188 ≤ off ∧ off ≤ 0x1FF) ∨ 0x218 ≤ off

/-- The lane file after a command as one atomic function of the state it was accepted in (R132). -/
def atomicLanes (i : Instr) (s : State) : Lanes :=
  match i with
  | .nop => s.lanes
  | .init _ => zeroLanes
  | .absorb => keccakF (xorBlock (rateLanes s) s.blk.toList s.lanes)
  | .final len => keccakF (xorBlock (rateLanes s) (padBlock s.blk len s.rate.toNat) s.lanes)
  | .permute => keccakF s.lanes
  | .round ridx => if h : ridx < 24 then rnd s.lanes ⟨ridx, h⟩ else s.lanes

/-- A run of `n` steps ends in state `t`, with no fault and no refusal on the way. -/
def RunsTo (n : Nat) (s t : State) : Prop := Host.Core.run core n s = .next t

end Sys2Proof
end

