-- ==== Sys2Proof/Certificates/Slice0/Obligations.lean ====
section
/-!
DEFINITION. The statements for the provers. Each docstring names the rules of spec/ it formalises.
-/

open Sys2Proof Sys2Proof.Machine

/-! ### Encoding -/

/-- R71, R73: decoding the encoding of a well-formed command gives it back, at every operand value. -/
def Obligations.DecodeOfEncode : Prop :=
  ∀ i : Instr, i.wf = true → decode (encode i) = .ok i

/-- R71, R73: every legal word is the encoding of the command it decodes to, and of no other. -/
def Obligations.EncodeOfDecode : Prop :=
  ∀ (w : Word) (i : Instr), decode w = .ok i → i.wf = true ∧ encode i = w

/-- R73: a word decodes exactly when it selects a row of the opcode map, and then to a command of that
row; no two rows select the same word. -/
def Obligations.DecodeFollowsOpcodeTable : Prop :=
  (∀ w : Word, (∃ i, decode w = .ok i) ↔ ∃ row ∈ opcodeTable, row.selects w = true) ∧
  (∀ (w : Word) (i : Instr), decode w = .ok i → ∃ row, rowOf i = some row ∧ row.selects w = true) ∧
  (∀ (w : Word) (r₁ r₂ : OpcodeRow), r₁ ∈ opcodeTable → r₂ ∈ opcodeTable →
    r₁.selects w = true → r₂.selects w = true → r₁ = r₂)

/-- R75: words written out from the spec's encodings decode to the commands they stand for. -/
def Obligations.WorkedWordsDecode : Prop :=
  decode 0x0000000000000000#64 = .ok .nop ∧
  decode 0x0000000001000001#64 = .ok (.init 256) ∧
  decode 0x0000000001800001#64 = .ok (.init 384) ∧
  decode 0x0000000001010001#64 = .ok (.init 257) ∧
  decode 0x0000000000000002#64 = .ok .absorb ∧
  decode 0x0000000000008703#64 = .ok (.final 135) ∧
  decode 0x0000000000000004#64 = .ok .permute ∧
  decode 0x0000000000001705#64 = .ok (.round 23) ∧
  decode 0x0000000000001805#64 = .ok (.round 24) ∧
  decode 0x0000000000000006#64 = .error (.reservedOpcode 6) ∧
  decode 0x0000000000000102#64 = .error .reservedBits

/-- R74: a word that selects no row changes nothing but ERR, to 5 while idle; while BUSY = 1 every
word, legal or not, is rejected with code 6; and the words with OP 0x6 to 0xF, or with a nonzero bit in
[7:4], [63:32] or the operand field their OP does not use, select no row. -/
def Obligations.IllegalWordRejected : Prop :=
  (∀ (s s0 : State) (w : Word), HostPerforms s (.wr 8 0x200 w) s0 → s.busy = false →
    (∀ row ∈ opcodeTable, row.selects w = false) →
    step s = .next { s0 with err := .illegalCommand }) ∧
  (∀ (s s0 : State) (w : Word), HostPerforms s (.wr 8 0x200 w) s0 → s.busy = true →
    step s = .next { s0 with err := .busy }) ∧
  (∀ w : Word, 6 ≤ field w 3 0 ∨ field w 7 4 ≠ 0 ∨ field w 63 32 ≠ 0 ∨
      (field w 15 8 ≠ 0 ∧ field w 3 0 ≠ 3 ∧ field w 3 0 ≠ 5) ∨
      (field w 31 16 ≠ 0 ∧ field w 3 0 ≠ 1) →
    ∀ row ∈ opcodeTable, row.selects w = false)

/-! ### The step -/

/-- R46, R70: when the host's turn writes a word that decodes to `i` to CMD, the step is `exec i` at
the state with that turn and that statement used up. How turns and host statements are held is the
model's choice (assumption log 4 and 5). -/
def Obligations.StepRunsDecodedCommand : Prop :=
  (∀ (s s0 : State) (w : Word) (i : Instr), HostPerforms s (.wr 8 0x200 w) s0 → decode w = .ok i →
    step s = exec i s0) ∧
  (∀ (s : State) (w : Nat) (i : Instr), decodeTableWord 64 w = some i →
    step (s.withFetchWord 64 w) = exec i s)

/-- R42, R204, R205: a step never refuses, and it faults exactly when the host's turn makes an access
that is not 8 bytes wide at the offset of a register; that offsets from 0x400 up are such is the model's
choice (assumption log 7). -/
def Obligations.StepFaultsOnlyByBusError : Prop :=
  (∀ (s : State) (r : Refusal), step s ≠ .refused r) ∧
  (∀ (s : State) (off : Nat), step s = .fault (.busError off) ↔
    ∃ width s0, accessReg width off = none ∧
      ((∃ v, HostPerforms s (.wr width off v) s0) ∨ (∃ var, HostPerforms s (.rd var width off) s0)))

/-! ### The commands -/

/-- R161: NOP. -/
def Obligations.NopCommand : Prop :=
  (∀ w : Word, decode w = .ok .nop ↔ w = 0x0000000000000000#64) ∧
  (∀ (s : State) (w : Word), s.busy = false → field w 3 0 = 0 → w ≠ 0x0000000000000000#64 →
    writeReg .cmd w s = .next { s with err := .illegalCommand }) ∧
  (∀ s : State, s.busy = true → exec .nop s = .next { s with err := .busy }) ∧
  (∀ s : State, s.busy = false → exec .nop s = .next { s with err := .ok })

/-- R162: INIT. -/
def Obligations.InitCommand : Prop :=
  (∀ (w : Word) (n : Nat), decode w = .ok (.init n) ↔
    w &&& 0xFFFFFFFF0000FFFF#64 = 0x0000000000000001#64 ∧ n = field w 31 16) ∧
  (∀ (s : State) (w : Word), s.busy = false → field w 3 0 = 1 →
    w &&& 0xFFFFFFFF0000FFFF#64 ≠ 0x0000000000000001#64 →
    writeReg .cmd w s = .next { s with err := .illegalCommand }) ∧
  (∀ (s : State) (n : Nat), s.busy = true → exec (.init n) s = .next { s with err := .busy }) ∧
  (∀ (s : State) (n : Nat), s.busy = false → n ∉ [256, 384, 512] →
    exec (.init n) s = .next { s with err := .invalidParameter }) ∧
  (∀ (s : State) (n : Nat), s.busy = false → n ∈ [256, 384, 512] →
    exec (.init n) s = .next
      { s with
        err := .ok, lanes := Vector.replicate 25 0, outBits := BitVec.ofNat 16 n,
        rate := BitVec.ofNat 8 (200 - n / 4), sph := .absorbing })

/-- R163: ABSORB, its rejections, its acceptance, and the state its 24 engine steps end in, which the spec
derives (from R132) and this statement draws from R130, R131 and R109. That a block word past the buffer
reads 0, at a RATE above 136 that no run reaches, is the model's choice (assumption log 13). -/
def Obligations.AbsorbCommand : Prop :=
  (∀ w : Word, decode w = .ok .absorb ↔ w = 0x0000000000000002#64) ∧
  (∀ (s : State) (w : Word), s.busy = false → field w 3 0 = 2 → w ≠ 0x0000000000000002#64 →
    writeReg .cmd w s = .next { s with err := .illegalCommand }) ∧
  (∀ s : State, s.busy = true → exec .absorb s = .next { s with err := .busy }) ∧
  (∀ s : State, s.busy = false → s.sph ≠ .absorbing →
    exec .absorb s = .next { s with err := .badSequence }) ∧
  (∀ s : State, s.busy = false → s.sph = .absorbing → ∃ A : Lanes,
    (∀ i : Fin 25, A[i] =
      if i.val < s.rate.toNat / 8 then s.lanes[i] ^^^ s.blk.getD i.val 0 else s.lanes[i]) ∧
    exec .absorb s = .next
      { s with err := .ok, lanes := A, pend := .absorb, rcnt := 0, rend := 23, busy := true } ∧
    engineStep^[24]
      { s with err := .ok, lanes := A, pend := .absorb, rcnt := 0, rend := 23, busy := true } =
      { s with err := .ok, lanes := keccakF A, pend := .none, rcnt := 23, rend := 23, busy := false })

/-- R164: FINAL, its rejections in their order, its acceptance, and the state its 24 engine steps end
in, SQUEEZING, which this statement draws from R130, R131 and R109. The padded block is R144's
(`PadBlockBytes`); what it is at a RATE other than the three, in states no run reaches, is the model's
choice (assumption log 13 and 20). -/
def Obligations.FinalCommand : Prop :=
  (∀ (w : Word) (len : Nat), decode w = .ok (.final len) ↔
    w &&& 0xFFFFFFFFFFFF00FF#64 = 0x0000000000000003#64 ∧ len = field w 15 8) ∧
  (∀ (s : State) (w : Word), s.busy = false → field w 3 0 = 3 →
    w &&& 0xFFFFFFFFFFFF00FF#64 ≠ 0x0000000000000003#64 →
    writeReg .cmd w s = .next { s with err := .illegalCommand }) ∧
  (∀ (s : State) (len : Nat), s.busy = true → exec (.final len) s = .next { s with err := .busy }) ∧
  (∀ (s : State) (len : Nat), s.busy = false → s.sph ≠ .absorbing →
    exec (.final len) s = .next { s with err := .badSequence }) ∧
  (∀ (s : State) (len : Nat), s.busy = false → s.sph = .absorbing → s.rate.toNat ≤ len →
    exec (.final len) s = .next { s with err := .badLength }) ∧
  (∀ (s : State) (len : Nat), s.busy = false → s.sph = .absorbing → len < s.rate.toNat →
    ∃ A : Lanes,
    (∀ i : Fin 25, A[i] =
      if i.val < s.rate.toNat / 8 then
        s.lanes[i] ^^^ (padBlock s.blk len s.rate.toNat).getD i.val 0
      else s.lanes[i]) ∧
    exec (.final len) s = .next
      { s with err := .ok, lanes := A, pend := .final, rcnt := 0, rend := 23, busy := true } ∧
    engineStep^[24]
      { s with err := .ok, lanes := A, pend := .final, rcnt := 0, rend := 23, busy := true } =
      { s with
        err := .ok, lanes := keccakF A, pend := .none, rcnt := 23, rend := 23, busy := false,
        sph := .squeezing })

/-- R120: PERMUTE, accepted in every phase, and the state its 24 engine steps end in, which the spec
derives from R130, R131 and R109. -/
def Obligations.PermuteCommand : Prop :=
  (∀ w : Word, decode w = .ok .permute ↔ w = 0x0000000000000004#64) ∧
  (∀ (s : State) (w : Word), s.busy = false → field w 3 0 = 4 → w ≠ 0x0000000000000004#64 →
    writeReg .cmd w s = .next { s with err := .illegalCommand }) ∧
  (∀ s : State, s.busy = true → exec .permute s = .next { s with err := .busy }) ∧
  (∀ s : State, s.busy = false →
    exec .permute s = .next
      { s with err := .ok, pend := .permute, rcnt := 0, rend := 23, busy := true } ∧
    engineStep^[24] { s with err := .ok, pend := .permute, rcnt := 0, rend := 23, busy := true } =
      { s with
        err := .ok, lanes := keccakF s.lanes, pend := .none, rcnt := 23, rend := 23,
        busy := false })

/-- R121: ROUND, its rejection, its acceptance in every phase, and the state its one engine step ends
in. -/
def Obligations.RoundCommand : Prop :=
  (∀ (w : Word) (r : Nat), decode w = .ok (.round r) ↔
    w &&& 0xFFFFFFFFFFFF00FF#64 = 0x0000000000000005#64 ∧ r = field w 15 8) ∧
  (∀ (s : State) (w : Word), s.busy = false → field w 3 0 = 5 →
    w &&& 0xFFFFFFFFFFFF00FF#64 ≠ 0x0000000000000005#64 →
    writeReg .cmd w s = .next { s with err := .illegalCommand }) ∧
  (∀ (s : State) (r : Nat), s.busy = true → exec (.round r) s = .next { s with err := .busy }) ∧
  (∀ (s : State) (r : Nat), s.busy = false → 23 < r →
    exec (.round r) s = .next { s with err := .badRound }) ∧
  (∀ (s : State) (r : Fin 24), s.busy = false →
    exec (.round r.val) s = .next
      { s with err := .ok, pend := .round, rcnt := r, rend := r, busy := true } ∧
    engineStep { s with err := .ok, pend := .round, rcnt := r, rend := r, busy := true } =
      { s with
        err := .ok, lanes := rnd s.lanes r, pend := .none, rcnt := r, rend := r, busy := false })

/-- The frame of the six commands at their CMD write: what each leaves unchanged when `exec` gives a
next state (R161 to R164, R120, R121). -/
def Obligations.CommandFrames : Prop :=
  (∀ (i : Instr) (s t : State), exec i s = .next t →
    t.blk = s.blk ∧ t.program = s.program ∧ t.observed = s.observed ∧ t.hostError = s.hostError ∧
      t.turns = s.turns ∧ t.draws = s.draws ∧ t.stream = s.stream) ∧
  (∀ (i : Instr) (s t : State), (∀ n, i ≠ .init n) → exec i s = .next t →
    t.outBits = s.outBits ∧ t.rate = s.rate ∧ t.sph = s.sph) ∧
  (∀ (i : Instr) (s t : State), (i = .nop ∨ i = .permute ∨ ∃ r, i = .round r) → exec i s = .next t →
    t.lanes = s.lanes) ∧
  (∀ (i : Instr) (s t : State), (i = .absorb ∨ ∃ n, i = .final n) → exec i s = .next t →
    ∀ j : Fin 25, s.rate.toNat / 8 ≤ j.val → t.lanes[j] = s.lanes[j]) ∧
  (∀ (i : Instr) (s t : State), (i = .nop ∨ ∃ n, i = .init n) → exec i s = .next t →
    t.busy = s.busy ∧ t.rcnt = s.rcnt ∧ t.pend = s.pend ∧ t.rend = s.rend)

/-- R205, R133: no data causes an error or changes what a command does to anything but the lanes: at
states that differ only in the lane file and the block buffer, a command gives next states that differ
only there. -/
def Obligations.CommandOutcomeIndependentOfData : Prop :=
  ∀ (i : Instr) (s t : State) (A : Lanes) (B : Block), exec i s = .next t →
    ∃ A' : Lanes, exec i { s with lanes := A, blk := B } = .next { t with lanes := A', blk := B }

/-- R163: ABSORB reads BLK only below RATE/8; R164, R144: FINAL reads only its first LEN bytes. At a RATE
other than the three, in states no run reaches, what they read is the model's choice (assumption log 13
and 20). -/
def Obligations.StaleBlockBytesIgnored : Prop :=
  (∀ (s : State) (B : Block), (∀ j : Fin 17, j.val < s.rate.toNat / 8 → B[j] = s.blk[j]) →
    ∀ t, exec .absorb s = .next t → exec .absorb { s with blk := B } = .next { t with blk := B }) ∧
  (∀ (s : State) (B : Block) (len : Nat), (∀ k, k < len → blkByte B k = blkByte s.blk k) →
    ∀ t, exec (.final len) s = .next t →
      exec (.final len) { s with blk := B } = .next { t with blk := B })

/-! ### Errors -/

/-- R202: a rejection is precise. -/
def Obligations.RejectionIsPrecise : Prop :=
  ∀ (s t : State) (w : Word), writeReg .cmd w s = .next t → t.err ≠ .ok → t = { s with err := t.err }

/-- R203: the priority of the causes that apply to one write. That offsets from 0x400 up are among the bus
errors is the model's choice (assumption log 7). -/
def Obligations.ErrorPriority : Prop :=
  (∀ (s : State) (w : Word), s.busy = true → writeReg .cmd w s = .next { s with err := .busy }) ∧
  (∀ (s : State) (w : Word) (e : Illegal), s.busy = false → decode w = .error e →
    writeReg .cmd w s = .next { s with err := .illegalCommand }) ∧
  (∀ (s : State) (len : Nat), s.busy = false → s.sph ≠ .absorbing →
    exec (.final len) s = .next { s with err := .badSequence }) ∧
  (∀ (s : State) (len : Nat), s.busy = false → s.sph = .absorbing → s.rate.toNat ≤ len →
    exec (.final len) s = .next { s with err := .badLength }) ∧
  (∀ (s s0 : State) (width off : Nat) (v : Word), HostPerforms s (.wr width off v) s0 →
    accessReg width off = none → step s = .fault (.busError off))

/-- R200: a step changes ERR only by a CMD write, by a LANE or BLK write while BUSY = 1, which sets 6, or
by reset. -/
def Obligations.ErrWriters : Prop :=
  ∀ s t : State, step s = .next t → t.err ≠ s.err →
    (∃ s0 w, HostPerforms s (.wr 8 0x200 w) s0) ∨
    (s.busy = true ∧ t.err = .busy ∧ ∃ s0 v, (∃ i : Fin 25, HostPerforms s (.wr 8 (8 * i.val) v) s0) ∨
      ∃ j : Fin 17, HostPerforms s (.wr 8 (0x100 + 8 * j.val) v) s0) ∨
    ((nextTurn s).1 = .reset ∧ t.err = .ok)

/-! ### The window -/

/-- R41: the window map, and no other legal access. That offsets from 0x400 up, which R41 does not list,
name no register is the model's choice (assumption log 7). -/
def Obligations.WindowMap : Prop :=
  (∀ i : Fin 25, accessReg 8 (0x000 + 8 * i.val) = some (.lane i)) ∧
  (∀ j : Fin 17, accessReg 8 (0x100 + 8 * j.val) = some (.blk j)) ∧
  accessReg 8 0x200 = some .cmd ∧ accessReg 8 0x208 = some .status ∧
  accessReg 8 0x210 = some .config ∧
  (∀ width off : Nat, accessReg width off = none ↔ width ≠ 8 ∨ off % 8 ≠ 0 ∨ ReservedOffset off)

/-- R42: a host access, read or write, ends in the bus error exactly when its width is not 8, its offset
is no multiple of 8 or its offset is reserved. That an offset from 0x400 up, outside the window of R40,
counts as reserved is the model's choice (assumption log 7). -/
def Obligations.IllegalAccessIsBusError : Prop :=
  ∀ (s s0 : State) (width off : Nat),
    (∀ v, HostPerforms s (.wr width off v) s0 →
      (step s = .fault (.busError off) ↔ width ≠ 8 ∨ off % 8 ≠ 0 ∨ ReservedOffset off)) ∧
    (∀ var, HostPerforms s (.rd var width off) s0 →
      (step s = .fault (.busError off) ↔ width ≠ 8 ∨ off % 8 ≠ 0 ∨ ReservedOffset off))

/-- R43: a LANE read returns the lane while idle and the next free value while BUSY = 1; nothing of the
engine changes. The stream and the counter of the draws are the model's own (assumption log 3). -/
def Obligations.LaneRead : Prop :=
  ∀ (s s0 : State) (var : HostVar) (i : Fin 25), HostPerforms s (.rd var 8 (8 * i.val)) s0 →
    (s.busy = false → step s = .next { s0 with observed := (var, s.lanes[i]) :: s.observed }) ∧
    (s.busy = true → step s = .next
      { s0 with
        observed := (var, Config.freeLaneRead s.stream s.draws) :: s.observed, draws := s.draws + 1 })

/-- R44: a LANE write while idle sets the lane and nothing else; while BUSY = 1 it sets ERR to 6 and
nothing else. -/
def Obligations.LaneWrite : Prop :=
  ∀ (s s0 : State) (i : Fin 25) (v : Word), HostPerforms s (.wr 8 (8 * i.val) v) s0 →
    (s.busy = false → step s = .next { s0 with lanes := s.lanes.set i.val v i.isLt }) ∧
    (s.busy = true → step s = .next { s0 with err := .busy })

/-- R45: a BLK write while idle sets the word and nothing else; while BUSY = 1 it sets ERR to 6 and
nothing else; a BLK read is exact in every state. -/
def Obligations.BlkAccess : Prop :=
  ∀ (s s0 : State) (j : Fin 17),
    (∀ v, HostPerforms s (.wr 8 (0x100 + 8 * j.val) v) s0 →
      (s.busy = false → step s = .next { s0 with blk := s.blk.set j.val v j.isLt }) ∧
      (s.busy = true → step s = .next { s0 with err := .busy })) ∧
    (∀ var, HostPerforms s (.rd var 8 (0x100 + 8 * j.val)) s0 →
      step s = .next { s0 with observed := (var, s.blk[j]) :: s.observed })

/-- R46 (its read), R47: CMD reads 0, STATUS and CONFIG read their words in every state, and writes to
STATUS and CONFIG are ignored. -/
def Obligations.ControlRegisterAccess : Prop :=
  ∀ s s0 : State,
    (∀ var, HostPerforms s (.rd var 8 0x200) s0 →
      step s = .next { s0 with observed := (var, 0) :: s.observed }) ∧
    (∀ var, HostPerforms s (.rd var 8 0x208) s0 →
      step s = .next { s0 with observed := (var, statusWord s) :: s.observed }) ∧
    (∀ var, HostPerforms s (.rd var 8 0x210) s0 →
      step s = .next { s0 with observed := (var, configWord s) :: s.observed }) ∧
    (∀ v, HostPerforms s (.wr 8 0x208 v) s0 → step s = .next s0) ∧
    (∀ v, HostPerforms s (.wr 8 0x210 v) s0 → step s = .next s0)

/-- R23, R24: the fields of the STATUS and CONFIG words, reserved bits 0, and the values of SPH; R201:
the values of ERR. -/
def Obligations.StatusAndConfigFields : Prop :=
  ∀ s : State,
    field (statusWord s) 0 0 = s.busy.toNat ∧ field (statusWord s) 2 1 = s.sph.code ∧
    field (statusWord s) 3 3 = 0 ∧ field (statusWord s) 7 4 = s.err.code ∧
    field (statusWord s) 12 8 = s.rcnt.val ∧ field (statusWord s) 63 13 = 0 ∧
    field (configWord s) 15 0 = s.outBits.toNat ∧ field (configWord s) 23 16 = s.rate.toNat ∧
    field (configWord s) 63 24 = 0 ∧
    (Phase.unconfigured.code = 0 ∧ Phase.absorbing.code = 1 ∧ Phase.squeezing.code = 2) ∧
    (ErrCode.ok.code = 0 ∧ ErrCode.invalidParameter.code = 1 ∧ ErrCode.badSequence.code = 2 ∧
      ErrCode.badLength.code = 3 ∧ ErrCode.badRound.code = 4 ∧ ErrCode.illegalCommand.code = 5 ∧
      ErrCode.busy.code = 6)

/-- R44, R45, R54: while idle, a data register read after a write of a data register gives the value
written if it is the same register, and what it held before otherwise. -/
def Obligations.ReadAfterWrite : Prop :=
  ∀ (s t : State) (r r' : Reg) (v : Word), s.busy = false →
    ((∃ i, r = .lane i) ∨ ∃ j, r = .blk j) → writeReg r v s = .next t →
    readReg r' t = if r' = r then v else readReg r' s

/-- R48: a host read changes nothing of the engine. -/
def Obligations.ReadsHaveNoSideEffect : Prop :=
  ∀ (s s0 t : State) (var : HostVar) (width off : Nat), HostPerforms s (.rd var width off) s0 →
    step s = .next t → SameEngine s t

/-! ### The permutation -/

/-- R103: theta, with all of C computed from the input. -/
def Obligations.ThetaLanes : Prop :=
  ∀ (A : Lanes) (C D : Fin 5 → Word),
    (∀ x, C x = laneAt A x 0 ^^^ laneAt A x 1 ^^^ laneAt A x 2 ^^^ laneAt A x 3 ^^^ laneAt A x 4) →
    (∀ x, D x = C (x + 4) ^^^ rotl64 (C (x + 1)) 1) →
    ∀ x y, laneAt (theta A) x y = laneAt A x y ^^^ D x

/-- R104: rho and pi, written at the destination the rule gives, which is every lane exactly once. -/
def Obligations.RhoPiLanes : Prop :=
  (∀ (A : Lanes) (x y : Fin 5),
    laneAt (rhoPi A) y (2 * x + 3 * y) = rotl64 (laneAt A x y) rotationOffsets[laneIndex x y]) ∧
  Function.Bijective (fun p : Fin 5 × Fin 5 => laneIndex p.2 (2 * p.1 + 3 * p.2))

/-- R105: rho then pi is the fused mapping; pi moves lanes as the two tables of the rule say. -/
def Obligations.RhoThenPi : Prop :=
  (∀ A : Lanes, pi (rho A) = rhoPi A) ∧
  (∀ R : Lanes, R.toList =
    [0, 10, 20, 5, 15, 16, 1, 11, 21, 6, 7, 17, 2, 12, 22, 23, 8, 18, 3, 13, 14, 24, 9, 19, 4].map
      (fun j => (pi R).getD j 0)) ∧
  (∀ (A : Lanes) (x y : Fin 5), laneAt (rho A) x y = rotl64 (laneAt A x y) rotationOffsets[laneIndex x y]) ∧
  (∀ R : Lanes, (pi R).toList =
    [0, 6, 12, 18, 24, 3, 9, 10, 16, 22, 1, 7, 13, 19, 20, 4, 5, 11, 17, 23, 2, 8, 14, 15, 21].map
      (fun j => R.getD j 0))

/-- R106, R107: chi reads only its input; iota changes lane 0 only. R108: the round is the four mappings
in order. -/
def Obligations.ChiAndIotaLanes : Prop :=
  (∀ (B : Lanes) (x y : Fin 5),
    laneAt (chi B) x y = laneAt B x y ^^^ (~~~(laneAt B (x + 1) y) &&& laneAt B (x + 2) y)) ∧
  (∀ (A : Lanes) (r : Fin 24) (i : Fin 25),
    (iota r A)[i] = if i = 0 then A[i] ^^^ roundConstants[r] else A[i]) ∧
  (∀ (A : Lanes) (r : Fin 24), rnd A r = iota r (chi (rhoPi (theta A))))

/-! ### The engine -/

/-- R131: an engine step. That an engine turn while BUSY = 0 changes nothing is the model's form of
"the engine never has a step when BUSY = 0" (assumption log 16). -/
def Obligations.EngineStepRule : Prop :=
  ∀ s s0 : State, TakesTurn s .engine s0 →
    (s.busy = false → step s = .next s0) ∧
    (s.busy = true → s.rcnt = s.rend → step s = .next
      { s0 with
        lanes := rnd s.lanes s.rcnt, busy := false,
        sph := if s.pend = .final then .squeezing else s.sph, pend := .none }) ∧
    (s.busy = true → s.rcnt ≠ s.rend → ∀ h : s.rcnt.val + 1 < 24, step s = .next
      { s0 with lanes := rnd s.lanes s.rcnt, rcnt := ⟨s.rcnt.val + 1, h⟩ })

/-- R131, R133, R250: an accepted command sets BUSY for exactly the engine steps of the table of R250,
whatever the data; a rejected one for none. With no turn fixed the engine moves while BUSY = 1: the
model's default schedule (assumption log 4). -/
def Obligations.CommandTakesExactSteps : Prop :=
  ∀ (i : Instr) (s t : State), s.busy = false → s.turns = [] → exec i s = .next t →
    (t.err = .ok →
      (∀ k, k < engineSteps i → ∃ u, RunsTo k t u ∧ u.busy = true) ∧
      ∃ u, RunsTo (engineSteps i) t u ∧ u.busy = false) ∧
    (t.err ≠ .ok → t.busy = false)

/-- R131 (weak fairness), R250: from every legal state, whatever turns are still to come, the machine is
idle again after at most those turns and 24 engine steps, unless the host faults first. The default
turn is the model's form of weak fairness (assumption log 4). -/
def Obligations.EngineComesToIdle : Prop :=
  ∀ s : State, Inv s → ∃ n, n ≤ s.turns.length + 24 ∧
    ((∃ t, RunsTo n s t ∧ t.busy = false) ∨ ∃ off, Host.Core.run core n s = .fault (.busError off))

/-- R121: twenty-four ROUND commands with round indexes 0 to 23, each followed by WAIT, give
Keccak-f[1600], under every schedule without a reset. That the run reaches its end rests on the model's
default turn and on its one-turn WAIT (assumption log 4 and 8). -/
def Obligations.RoundsComposeToKeccakF : Prop :=
  ∀ s : State, s.busy = false → NoReset s →
    s.program = (List.finRange 24).flatMap (fun r => [cmdStmt (.round r.val), .wait]) →
    ∃ n t, RunsTo n s t ∧ t.program = [] ∧ t.busy = false ∧ t.lanes = keccakF s.lanes ∧ t.err = .ok

/-- R132: a command followed by WAIT has the effect of one atomic function on the lanes, under every
schedule without a reset. That the run reaches its end rests on the model's default turn and on its
one-turn WAIT (assumption log 4 and 8), and what a block is at a RATE other than the three, in states no
run reaches, is the model's choice (assumption log 13 and 20). -/
def Obligations.CommandThenWaitIsAtomic : Prop :=
  ∀ (i : Instr) (s u : State) (rest : List HostStmt), i.wf = true → s.busy = false → NoReset s →
    s.program = cmdStmt i :: .wait :: rest → exec i s = .next u → u.err = .ok →
    ∃ n t, RunsTo n s t ∧ t.program = rest ∧ NoReset t ∧ t.busy = false ∧ t.err = .ok ∧
      t.lanes = atomicLanes i s ∧ t.blk = s.blk ∧ t.outBits = u.outBits ∧ t.rate = u.rate ∧
      ((∃ len, i = .final len) → t.sph = .squeezing) ∧ ((∀ len, i ≠ .final len) → t.sph = u.sph)

/-! ### Writers of the state -/

/-- R25: how SPH changes: to ABSORBING by an accepted INIT, to SQUEEZING by the last engine step of a
FINAL, to UNCONFIGURED by reset, and by nothing else. -/
def Obligations.PhaseTransitions : Prop :=
  ∀ s t : State, step s = .next t → t.sph ≠ s.sph →
    (∃ s0 w n, HostPerforms s (.wr 8 0x200 w) s0 ∧ decode w = .ok (.init n) ∧ n ∈ [256, 384, 512] ∧
      s.busy = false ∧ t.sph = .absorbing) ∨
    ((nextTurn s).1 = .engine ∧ s.busy = true ∧ s.pend = .final ∧ s.rcnt = s.rend ∧
      t.sph = .squeezing) ∨
    ((nextTurn s).1 = .reset ∧ t.sph = .unconfigured)

/-- R23: "Only an accepted INIT command writes CONFIG", and reset. -/
def Obligations.ConfigWriters : Prop :=
  ∀ s t : State, step s = .next t → t.outBits ≠ s.outBits ∨ t.rate ≠ s.rate →
    (∃ s0 w n, HostPerforms s (.wr 8 0x200 w) s0 ∧ decode w = .ok (.init n) ∧ n ∈ [256, 384, 512] ∧
      s.busy = false ∧ t.outBits = BitVec.ofNat 16 n ∧ t.rate = BitVec.ofNat 8 (200 - n / 4)) ∨
    ((nextTurn s).1 = .reset ∧ t.outBits = 0 ∧ t.rate = 0)

/-- R20, R22: what writes the lane file and the block buffer; no command and no engine step writes the
block buffer. -/
def Obligations.DataWriters : Prop :=
  (∀ s t : State, step s = .next t → t.blk ≠ s.blk →
    (s.busy = false ∧ ∃ s0 v, ∃ j : Fin 17, HostPerforms s (.wr 8 (0x100 + 8 * j.val) v) s0) ∨
    (nextTurn s).1 = .reset) ∧
  (∀ s t : State, step s = .next t → t.lanes ≠ s.lanes →
    (s.busy = false ∧ ∃ s0 v, ∃ i : Fin 25, HostPerforms s (.wr 8 (8 * i.val) v) s0) ∨
    (s.busy = false ∧ t.err = .ok ∧ ∃ s0 w i, HostPerforms s (.wr 8 0x200 w) s0 ∧ decode w = .ok i ∧
      (i = .absorb ∨ (∃ n, i = .init n) ∨ ∃ len, i = .final len)) ∨
    ((nextTurn s).1 = .engine ∧ s.busy = true ∧ t.lanes = rnd s.lanes s.rcnt) ∨
    (nextTurn s).1 = .reset)

/-- The legal states hold at reset (R230). -/
def Obligations.InvAtReset : Prop := Inv State.reset

/-- Every step from a legal state leads to a legal state: the CONFIG pairs of R23, PEND and BUSY (R28),
RCNT not past REND (R27), and the phases in which the rounds of ABSORB and FINAL run. -/
def Obligations.StepKeepsInv : Prop :=
  ∀ s t : State, Inv s → step s = .next t → Inv t

/-- R240, R132: a host that keeps to the busy window keeps to it after every step, its writes are never
rejected for BUSY, and it never sees an unspecified value, whatever the schedule. -/
def Obligations.RespectfulHostNeverRejected : Prop :=
  ∀ s t : State, Respectful s → step s = .next t →
    Respectful t ∧ t.draws = s.draws ∧ (t.err = .busy → s.err = .busy)

/-- R240: while BUSY = 1 a write to CMD, LANE or BLK is ignored and sets ERR to 6, and the command in
progress goes on: its engine step is the one it would have taken without the write. -/
def Obligations.BusyWritesIgnored : Prop :=
  ∀ (s s0 t : State) (off : Nat) (v : Word), s.busy = true → HostPerforms s (.wr 8 off v) s0 →
    (off = 0x200 ∨ (∃ i : Fin 25, off = 8 * i.val) ∨ ∃ j : Fin 17, off = 0x100 + 8 * j.val) →
    step s = .next t →
    t = { s0 with err := .busy } ∧ engineStep t = { engineStep s0 with err := .busy }

/-- R230: a reset gives every piece of the engine's state its reset value, whatever was in progress;
it is the engine of `State.reset`. -/
def Obligations.ResetEvent : Prop :=
  ∀ s s0 : State, TakesTurn s .reset s0 → ∃ t, step s = .next t ∧
    (∀ i : Fin 25, t.lanes[i] = 0x0000000000000000#64) ∧
    (∀ j : Fin 17, t.blk[j] = 0x0000000000000000#64) ∧
    configWord t = 0x0000000000000000#64 ∧ statusWord t = 0x0000000000000000#64 ∧
    t.outBits = 0 ∧ t.rate = 0 ∧ t.busy = false ∧ t.sph = .unconfigured ∧ t.err = .ok ∧
    t.rcnt = 0 ∧ t.pend = .none ∧ t.rend = 0 ∧ SameEngine State.reset t

/-! ### Bytes and padding -/

/-- R51, R52: the byte view of the lane file and the reading of bytes as lanes are inverse. -/
def Obligations.LanesAndBytesInverse : Prop :=
  (∀ A : Lanes, lanesFromBytes (stateBytes A) = A.toList) ∧
  (∀ (b : List Byte) (k : Nat), b.length % 8 = 0 → k < b.length →
    byteOf ((lanesFromBytes b).getD (k / 8) 0) (k % 8) = b.getD k 0)

/-- R142: the invariants of pad. -/
def Obligations.PadInvariants : Prop :=
  ∀ (x : List Byte) (r : Nat), 1 ≤ r →
    (pad x r).length % r = 0 ∧ x.length < (pad x r).length ∧
    (pad x r).length = r * (x.length / r + 1) ∧ (pad x r).take x.length = x ∧
    (pad x r).length ≤ x.length + r ∧ (x.length % r = 0 → (pad x r).length = x.length + r)

/-- R140, R141: the padding bytes: the delimiter 0x01 follows the message, the last byte has 0x80, the
two combine to 0x81 exactly when one byte of padding space exists, and the bytes between are 0. -/
def Obligations.PadBytesCombine : Prop :=
  ∀ (x : List Byte) (r : Nat), 1 ≤ r →
    (x.length % r = r - 1 ↔ (pad x r).length = x.length + 1) ∧
    (x.length % r = r - 1 → (pad x r).getD x.length 0 = 0x81#8) ∧
    (x.length % r ≠ r - 1 → (pad x r).getD x.length 0 = 0x01#8 ∧
      (pad x r).getD ((pad x r).length - 1) 0 = 0x80#8) ∧
    (∀ k, x.length < k → k + 1 < (pad x r).length → (pad x r).getD k 0 = 0#8)

/-- R144: the bytes of the padded final block. R144 gives them at the rates 136, 104 and 72; that they
follow the same formula at every other `R`, and what the block buffer reads as past its end, are the
model's choices (assumption log 20 and 13). -/
def Obligations.PadBlockBytes : Prop :=
  ∀ (blk : Block) (len R : Nat), len < R → R % 8 = 0 → (padBlock blk len R).length = R / 8 ∧
    ∀ k, k < R → byteOf ((padBlock blk len R).getD (k / 8) 0) (k % 8) =
      (if k < len then blkByte blk k else if k = len then 0x01#8 else 0#8) ^^^
        (if k = R - 1 then 0x80#8 else 0#8)

/-- R145: the source's pad is the full message blocks followed by the one padded final block that the
hardware builds. R144 gives that block at the rates 136, 104 and 72; that it follows the same formula at
every other `R`, and what the block buffer reads as past its end, are the model's choices (assumption log
20 and 13). -/
def Obligations.PadIsBlocksThenFinalBlock : Prop :=
  ∀ (m : List Byte) (R : Nat) (blk : Block), 1 ≤ R →
    (∀ k, k < m.length % R → blkByte blk k = m.getD (m.length / R * R + k) 0) →
    pad m R = m.take (m.length / R * R) ++ padBytes blk (m.length % R) R

/-! ### The sponge -/

/-- R172, R181: the output of the hash function is `bits / 8` bytes long at the accepted output lengths;
at every other it fails with InvalidParameter. -/
def Obligations.HashOutput : Prop :=
  (∀ (bits : Nat) (m d : List Byte), keccakHash bits m = .ok d → d.length = bits / 8) ∧
  (∀ (bits : Nat) (m : List Byte), bits ∉ [256, 384, 512] →
    keccakHash bits m = .error .invalidParameter)

/-- R82, R53: LOADBLK puts message byte `k` of the block at byte `k mod 8` of BLK[k div 8], fills the
rest of the last word it writes with zeros, and leaves the other words, and everything else of the
engine, unchanged. That the run reaches its end rests on the model's default turn, and the host's form is
the model's (assumption log 4 and 5). -/
def Obligations.LoadBlkFillsBuffer : Prop :=
  ∀ (s : State) (bytes : List Byte) (rest : List HostStmt), bytes.length ≤ 136 → s.busy = false →
    NoReset s → s.program = loadBlk bytes ++ rest →
    ∃ n t, RunsTo n s t ∧ t.program = rest ∧ NoReset t ∧
      (∀ k, k < bytes.length → blkByte t.blk k = bytes.getD k 0) ∧
      (∀ k, bytes.length ≤ k → k < 8 * ((bytes.length + 7) / 8) → blkByte t.blk k = 0) ∧
      (∀ j : Fin 17, (bytes.length + 7) / 8 ≤ j.val → t.blk[j] = s.blk[j]) ∧
      SameEngine { s with blk := t.blk } t

/-- R180: the host program HASH computes Hash(bits, m) of R172, for every message and under every
schedule of host and engine without a reset: it ends without error, in SQUEEZING, the digest is the
hash, and the host has read its lanes. The host's form is the model's (assumption log 4, 5 and 8). -/
def Obligations.HashProgramComputesHash : Prop :=
  ∀ (s : State) (bits : Nat) (m : List Byte), bits ∈ [256, 384, 512] → s.busy = false →
    s.hostError = false → NoReset s → s.program = hashStmts bits m →
    ∃ n t, RunsTo n s t ∧ t.program = [] ∧ t.hostError = false ∧ t.busy = false ∧
      t.sph = .squeezing ∧ keccakHash bits m = .ok (digest t) ∧
      ∀ i : Fin 25, i.val < bits / 64 → t.observed.lookup (.d i.val) = some t.lanes[i]

/-- R180: with an output length that is not supported the program stops at its first CHECK with ERR = 1,
before any state of the engine but ERR changes. That `goto error` ends the program there, and that the
run gets there, are the model's choices (assumption log 8 and 4). -/
def Obligations.HashProgramRejectsParameter : Prop :=
  ∀ (s : State) (bits : Nat) (m : List Byte), bits < 2 ^ 16 → bits ∉ [256, 384, 512] →
    s.busy = false → NoReset s → s.program = hashStmts bits m →
    ∃ n t, RunsTo n s t ∧ t.program = [] ∧ t.hostError = true ∧ t.err = .invalidParameter ∧
      SameEngine { s with err := .invalidParameter } t

/-! ### The host and the platform -/

/-- R82: WAIT polls STATUS until BUSY = 0; CHECK leaves the program when ERR is not 0. That the read and
the branch are one turn is the model's choice (assumption log 8). -/
def Obligations.WaitAndCheck : Prop :=
  ∀ s s0 : State,
    (HostPerforms s .wait s0 → s.busy = true → step s = .next
      { s0 with program := s.program, observed := (.s, statusWord s) :: s.observed }) ∧
    (HostPerforms s .wait s0 → s.busy = false → step s = .next
      { s0 with observed := (.s, statusWord s) :: s.observed }) ∧
    (HostPerforms s .check s0 → s.err ≠ .ok → step s = .next
      { s0 with program := [], hostError := true, observed := (.s, statusWord s) :: s.observed }) ∧
    (HostPerforms s .check s0 → s.err = .ok → step s = .next
      { s0 with observed := (.s, statusWord s) :: s.observed })

/-- R211: instances do not interact: a step of one leaves every other as it is, and steps of two
instances give the same platform in either order; and a step of an instance is the machine's step, with
the free values of that instance's own stream. The platform's form, the reach of a reset turn (one
instance) and the streams are the model's (assumption log 11 and 3). -/
def Obligations.InstancesDoNotInteract : Prop :=
  (∀ (n : Nat) (p : Platform n) (j k : Fin n), j ≠ k →
    (stepInstance k p)[j] = p[j] ∧
    stepInstance j (stepInstance k p) = stepInstance k (stepInstance j p)) ∧
  (∀ (n : Nat) (p : Platform n) (k : Fin n) (t : State),
    step { p[k] with stream := k.val } = .next t → (stepInstance k p)[k] = t)

/-- R211, R54, R48: hosts that share one instance keep what is their own. A turn of host `h` is the turn of a
sole host with `h`'s view, on the engine and on that view, and leaves every other host's statements and
values as they were; a turn in which `h` writes nothing leaves the engine as it was; an engine turn is the
engine step (R131), a reset gives the engine its reset values (R230), and neither touches a host's view.
The form of the shared instance (assumption log 10), and that a reset leaves every host's statements,
values and error mark, of which R230 says nothing (assumption log 9), are the model's choices. -/
def Obligations.SharedHostsKeepTheirOwn : Prop :=
  ∀ (n : Nat) (m : SharedEngine n),
    (∀ (h : Fin n) (t : State), hostTurn (m.engine.withHost m.hosts[h]) = .next t →
      ∃ m', stepShared (.host h) m = .next m' ∧ SameEngine t m'.engine ∧
        m'.engine.draws = t.draws ∧ m'.engine.stream = t.stream ∧
        m'.hosts[h] = ⟨t.program, t.observed, t.hostError⟩ ∧
        ∀ j : Fin n, j ≠ h → m'.hosts[j] = m.hosts[j]) ∧
    (∀ (h : Fin n) (off : Nat), stepShared (.host h) m = .fault (.busError off) ↔
      hostTurn (m.engine.withHost m.hosts[h]) = .fault (.busError off)) ∧
    (∀ (h : Fin n) (m' : SharedEngine n), stepShared (.host h) m = .next m' →
      (∀ width off v rest, m.hosts[h].program ≠ .wr width off v :: rest) →
      SameEngine m.engine m'.engine) ∧
    (∃ m', stepShared .engine m = .next m' ∧ m'.engine = engineStep m.engine ∧ m'.hosts = m.hosts) ∧
    (∃ m', stepShared .reset m = .next m' ∧ SameEngine State.reset m'.engine ∧ m'.hosts = m.hosts)
end

