-- ==== Sys2Proof/Laws/Bits.lean ====
section
/-!
SUPPORT. Laws of the lane coordinates, of lane files given lane by lane, of the XOR of a block, and of
the bytes of a word.
-/

namespace Sys2Proof.Machine

@[simp] theorem laneX_laneIndex (x y : Fin 5) : laneX (laneIndex x y) = x := by
  ext; simp only [laneX, laneIndex]; omega

@[simp] theorem laneY_laneIndex (x y : Fin 5) : laneY (laneIndex x y) = y := by
  ext; simp only [laneY, laneIndex]; omega

@[simp] theorem laneIndex_laneX_laneY (i : Fin 25) : laneIndex (laneX i) (laneY i) = i := by
  ext; simp only [laneX, laneY, laneIndex]; omega

/-- Lane `(x, y)` of a lane file given by coordinates. -/
@[simp] theorem laneAt_gridOf (f : Fin 5 → Fin 5 → Word) (x y : Fin 5) :
    laneAt (gridOf f) x y = f x y := by
  have h : laneAt (gridOf f) x y = f (laneX (laneIndex x y)) (laneY (laneIndex x y)) := by
    rw [gridOf]; simp [laneAt]
  simpa using h

/-- Two lane files with the same lanes at all coordinates are equal. -/
theorem lanes_ext {A B : Lanes} (h : ∀ x y, laneAt A x y = laneAt B x y) : A = B := by
  refine Vector.ext fun i hi => ?_
  have := h (laneX ⟨i, hi⟩) (laneY ⟨i, hi⟩)
  simp only [laneAt, laneIndex_laneX_laneY] at this
  exact this

/-- The lanes after the XOR of a block: the first `n` are XORed, the others untouched. -/
@[simp] theorem getElem_xorBlock (n : Nat) (W : List Word) (A : Lanes) (i : Nat) (h : i < 25) :
    (xorBlock n W A)[i] = if i < n then A[i] ^^^ W.getD i 0#64 else A[i] := by
  rw [xorBlock, Vector.getElem_ofFn]; rfl

/-- Bit `j` of byte `m` of a word. -/
@[simp] theorem getLsbD_byteOf (v : Word) (m j : Nat) :
    (byteOf v m).getLsbD j = (decide (j < 8) && v.getLsbD (8 * m + j)) := by
  simp [byteOf]

@[simp] theorem length_lanesFromBytes (b : List Byte) :
    (lanesFromBytes b).length = b.length / 8 := by
  simp [lanesFromBytes]

@[simp] theorem length_stateBytes (A : Lanes) : (stateBytes A).length = 200 := by
  rw [stateBytes]; exact List.length_ofFn

/-- Byte `k` of the 200-byte view is byte `k mod 8` of lane `k div 8` (R52). -/
theorem getElem_stateBytes (A : Lanes) (k : Nat) (h : k < 200) :
    (stateBytes A)[k]'(by rw [length_stateBytes]; exact h) =
      byteOf (A[k / 8]'(by omega)) (k % 8) := by
  simp only [stateBytes]; exact List.getElem_ofFn ..

/-- Bit `i` of the word assembled from the first `n` bytes (R51). -/
theorem getLsbD_foldBytes (f : Nat → Byte) (n i : Nat) (hi : i < 64) :
    ((List.range n).foldl (fun acc m => acc ||| ((f m).setWidth 64 <<< (8 * m))) 0#64).getLsbD i =
      (decide (i < 8 * n) && (f (i / 8)).getLsbD (i % 8)) := by
  induction n with
  | zero => simp
  | succ n ih =>
    simp only [List.range_succ, List.foldl_append, List.foldl_cons, List.foldl_nil,
      BitVec.getLsbD_or, ih, BitVec.getLsbD_shiftLeft, BitVec.getLsbD_setWidth, hi, decide_true,
      Bool.true_and]
    by_cases h1 : i < 8 * n
    · simp [h1, show i < 8 * (n + 1) by omega]
    · by_cases h2 : i < 8 * (n + 1)
      · have e1 : i / 8 = n := by omega
        have e2 : i - 8 * n = i % 8 := by omega
        have e3 : i % 8 < 64 := by omega
        simp [h1, h2, e1, e2, e3]
      · have e3 : 8 ≤ i - 8 * n := by omega
        simp [h1, h2, BitVec.getLsbD_of_ge (f n) _ e3]

/-- Byte `m` of the word at bytes `8w .. 8w+7` is byte `8w + m` of the sequence (R51). -/
theorem byteOf_wordAtBytes (b : List Byte) (w m : Nat) (hm : m < 8) :
    byteOf (wordAtBytes b w) m = b.getD (8 * w + m) 0 := by
  refine BitVec.eq_of_getLsbD_eq fun j hj => ?_
  rw [getLsbD_byteOf, wordAtBytes, getLsbD_foldBytes (fun m => b.getD (8 * w + m) 0) _ _ (by omega)]
  have e1 : (8 * m + j) / 8 = m := by omega
  have e2 : (8 * m + j) % 8 = j := by omega
  have e3 : 8 * m + j < 8 * 8 := by omega
  simp [e1, e2, e3, hj]

/-- A word is determined by its eight bytes. -/
theorem word_ext_bytes {v w : Word} (h : ∀ m, m < 8 → byteOf v m = byteOf w m) : v = w := by
  refine BitVec.eq_of_getLsbD_eq fun i hi => ?_
  have := congrArg (fun b => b.getLsbD (i % 8)) (h (i / 8) (by omega))
  have e : 8 * (i / 8) + i % 8 = i := by omega
  simpa only [getLsbD_byteOf, e, Nat.mod_lt i (by decide : 8 > 0), decide_true, Bool.true_and] using this

end Sys2Proof.Machine
end

