-- ==== Sys2Proof/Laws/Decode.lean ====
section
/-!
SUPPORT. What the decoder and the window's address decoder can answer, said once.
-/

namespace Sys2Proof

/-- A field is below 2 to its width. -/
theorem field_lt (w : Word) (hi lo : Nat) : field w hi lo < 2 ^ (hi + 1 - lo) :=
  Nat.mod_lt _ (Nat.two_pow_pos _)

/-- Bit `j` of a field is bit `lo + j` of the word. -/
theorem testBit_field (w : Word) (hi lo j : Nat) :
    (field w hi lo).testBit j = (decide (j < hi + 1 - lo) && w.getLsbD (lo + j)) := by
  simp [field, Nat.testBit_mod_two_pow, Nat.testBit_shiftRight, BitVec.getLsbD]

/-- The command a word decodes to, with the fields that make it so. -/
theorem decode_cases {w : Word} {i : Instr} (h : decode w = .ok i) :
    (i = .nop ∧ field w 3 0 = 0 ∧ field w 63 4 = 0) ∨
    (i = .init (field w 31 16) ∧ field w 3 0 = 1 ∧ field w 15 4 = 0 ∧ field w 63 32 = 0) ∨
    (i = .absorb ∧ field w 3 0 = 2 ∧ field w 63 4 = 0) ∨
    (i = .final (field w 15 8) ∧ field w 3 0 = 3 ∧ field w 7 4 = 0 ∧ field w 63 16 = 0) ∨
    (i = .permute ∧ field w 3 0 = 4 ∧ field w 63 4 = 0) ∨
    (i = .round (field w 15 8) ∧ field w 3 0 = 5 ∧ field w 7 4 = 0 ∧ field w 63 16 = 0) := by
  unfold decode at h
  split at h <;> (try split at h) <;> simp_all

/-- A word whose fields are those of a command decodes to it. -/
theorem decode_of_fields {w : Word} :
    (field w 3 0 = 0 → field w 63 4 = 0 → decode w = .ok .nop) ∧
    (field w 3 0 = 1 → field w 15 4 = 0 → field w 63 32 = 0 →
      decode w = .ok (.init (field w 31 16))) ∧
    (field w 3 0 = 2 → field w 63 4 = 0 → decode w = .ok .absorb) ∧
    (field w 3 0 = 3 → field w 7 4 = 0 → field w 63 16 = 0 →
      decode w = .ok (.final (field w 15 8))) ∧
    (field w 3 0 = 4 → field w 63 4 = 0 → decode w = .ok .permute) ∧
    (field w 3 0 = 5 → field w 7 4 = 0 → field w 63 16 = 0 →
      decode w = .ok (.round (field w 15 8))) := by
  refine ⟨?_, ?_, ?_, ?_, ?_, ?_⟩ <;> intros <;> unfold decode <;> simp_all

end Sys2Proof

namespace Sys2Proof.Machine

/-- A register stands only at its own offset. -/
theorem regAt_eq_some {off : Nat} {r : Reg} (h : regAt off = some r) : off = regOffset r := by
  unfold regAt at h
  split at h; · cases h
  split at h; · cases h; simp only [regOffset]; omega
  split at h; · cases h; simp only [regOffset]; omega
  split at h; · cases h; simpa only [regOffset]
  split at h; · cases h; simpa only [regOffset]
  split at h; · cases h; simpa only [regOffset]
  cases h

/-- A legal access is 8 bytes wide at the register's offset. -/
theorem accessReg_eq_some {width off : Nat} {r : Reg} (h : accessReg width off = some r) :
    width = 8 ∧ off = regOffset r := by
  unfold accessReg at h
  split at h
  · exact ⟨‹_›, regAt_eq_some h⟩
  · cases h

/-- Every register is reached at its offset. -/
theorem accessReg_regOffset (r : Reg) : accessReg 8 (regOffset r) = some r := by
  cases r with
  | lane i => revert i; decide
  | blk j => revert j; decide
  | cmd => decide
  | status => decide
  | config => decide

end Sys2Proof.Machine
end

