-- ==== Sys2Proof/Laws/State.lean ====
section
/-!
SUPPORT. What each named update of the state does to each field, true by definition, so that no later
proof unfolds a record update.
-/

namespace Sys2Proof.Machine

/-! `accept` -/

@[simp] theorem accept_lanes (s : State) : (accept s).lanes = s.lanes := rfl
@[simp] theorem accept_blk (s : State) : (accept s).blk = s.blk := rfl
@[simp] theorem accept_outBits (s : State) : (accept s).outBits = s.outBits := rfl
@[simp] theorem accept_rate (s : State) : (accept s).rate = s.rate := rfl
@[simp] theorem accept_busy (s : State) : (accept s).busy = s.busy := rfl
@[simp] theorem accept_sph (s : State) : (accept s).sph = s.sph := rfl
@[simp] theorem accept_err (s : State) : (accept s).err = .ok := rfl
@[simp] theorem accept_rcnt (s : State) : (accept s).rcnt = s.rcnt := rfl
@[simp] theorem accept_pend (s : State) : (accept s).pend = s.pend := rfl
@[simp] theorem accept_rend (s : State) : (accept s).rend = s.rend := rfl
@[simp] theorem accept_program (s : State) : (accept s).program = s.program := rfl
@[simp] theorem accept_observed (s : State) : (accept s).observed = s.observed := rfl
@[simp] theorem accept_hostError (s : State) : (accept s).hostError = s.hostError := rfl
@[simp] theorem accept_turns (s : State) : (accept s).turns = s.turns := rfl
@[simp] theorem accept_draws (s : State) : (accept s).draws = s.draws := rfl
@[simp] theorem accept_stream (s : State) : (accept s).stream = s.stream := rfl

/-! `cmdRejected` -/

@[simp] theorem cmdRejected_lanes (code : ErrCode) (s : State) : (cmdRejected code s).lanes = s.lanes := rfl
@[simp] theorem cmdRejected_blk (code : ErrCode) (s : State) : (cmdRejected code s).blk = s.blk := rfl
@[simp] theorem cmdRejected_outBits (code : ErrCode) (s : State) : (cmdRejected code s).outBits = s.outBits := rfl
@[simp] theorem cmdRejected_rate (code : ErrCode) (s : State) : (cmdRejected code s).rate = s.rate := rfl
@[simp] theorem cmdRejected_busy (code : ErrCode) (s : State) : (cmdRejected code s).busy = s.busy := rfl
@[simp] theorem cmdRejected_sph (code : ErrCode) (s : State) : (cmdRejected code s).sph = s.sph := rfl
@[simp] theorem cmdRejected_err (code : ErrCode) (s : State) : (cmdRejected code s).err = code := rfl
@[simp] theorem cmdRejected_rcnt (code : ErrCode) (s : State) : (cmdRejected code s).rcnt = s.rcnt := rfl
@[simp] theorem cmdRejected_pend (code : ErrCode) (s : State) : (cmdRejected code s).pend = s.pend := rfl
@[simp] theorem cmdRejected_rend (code : ErrCode) (s : State) : (cmdRejected code s).rend = s.rend := rfl
@[simp] theorem cmdRejected_program (code : ErrCode) (s : State) : (cmdRejected code s).program = s.program := rfl
@[simp] theorem cmdRejected_observed (code : ErrCode) (s : State) : (cmdRejected code s).observed = s.observed := rfl
@[simp] theorem cmdRejected_hostError (code : ErrCode) (s : State) : (cmdRejected code s).hostError = s.hostError := rfl
@[simp] theorem cmdRejected_turns (code : ErrCode) (s : State) : (cmdRejected code s).turns = s.turns := rfl
@[simp] theorem cmdRejected_draws (code : ErrCode) (s : State) : (cmdRejected code s).draws = s.draws := rfl
@[simp] theorem cmdRejected_stream (code : ErrCode) (s : State) : (cmdRejected code s).stream = s.stream := rfl

/-! `startRounds` -/

@[simp] theorem startRounds_lanes (p : Pend) (r0 r1 : Fin 24) (s : State) : (startRounds p r0 r1 s).lanes = s.lanes := rfl
@[simp] theorem startRounds_blk (p : Pend) (r0 r1 : Fin 24) (s : State) : (startRounds p r0 r1 s).blk = s.blk := rfl
@[simp] theorem startRounds_outBits (p : Pend) (r0 r1 : Fin 24) (s : State) : (startRounds p r0 r1 s).outBits = s.outBits := rfl
@[simp] theorem startRounds_rate (p : Pend) (r0 r1 : Fin 24) (s : State) : (startRounds p r0 r1 s).rate = s.rate := rfl
@[simp] theorem startRounds_busy (p : Pend) (r0 r1 : Fin 24) (s : State) : (startRounds p r0 r1 s).busy = true := rfl
@[simp] theorem startRounds_sph (p : Pend) (r0 r1 : Fin 24) (s : State) : (startRounds p r0 r1 s).sph = s.sph := rfl
@[simp] theorem startRounds_err (p : Pend) (r0 r1 : Fin 24) (s : State) : (startRounds p r0 r1 s).err = s.err := rfl
@[simp] theorem startRounds_rcnt (p : Pend) (r0 r1 : Fin 24) (s : State) : (startRounds p r0 r1 s).rcnt = r0 := rfl
@[simp] theorem startRounds_pend (p : Pend) (r0 r1 : Fin 24) (s : State) : (startRounds p r0 r1 s).pend = p := rfl
@[simp] theorem startRounds_rend (p : Pend) (r0 r1 : Fin 24) (s : State) : (startRounds p r0 r1 s).rend = r1 := rfl
@[simp] theorem startRounds_program (p : Pend) (r0 r1 : Fin 24) (s : State) : (startRounds p r0 r1 s).program = s.program := rfl
@[simp] theorem startRounds_observed (p : Pend) (r0 r1 : Fin 24) (s : State) : (startRounds p r0 r1 s).observed = s.observed := rfl
@[simp] theorem startRounds_hostError (p : Pend) (r0 r1 : Fin 24) (s : State) : (startRounds p r0 r1 s).hostError = s.hostError := rfl
@[simp] theorem startRounds_turns (p : Pend) (r0 r1 : Fin 24) (s : State) : (startRounds p r0 r1 s).turns = s.turns := rfl
@[simp] theorem startRounds_draws (p : Pend) (r0 r1 : Fin 24) (s : State) : (startRounds p r0 r1 s).draws = s.draws := rfl
@[simp] theorem startRounds_stream (p : Pend) (r0 r1 : Fin 24) (s : State) : (startRounds p r0 r1 s).stream = s.stream := rfl

/-! `configure` -/

@[simp] theorem configure_lanes (n : Nat) (s : State) : (configure n s).lanes = zeroLanes := rfl
@[simp] theorem configure_blk (n : Nat) (s : State) : (configure n s).blk = s.blk := rfl
@[simp] theorem configure_outBits (n : Nat) (s : State) : (configure n s).outBits = BitVec.ofNat 16 n := rfl
@[simp] theorem configure_rate (n : Nat) (s : State) : (configure n s).rate = BitVec.ofNat 8 (rateOf n) := rfl
@[simp] theorem configure_busy (n : Nat) (s : State) : (configure n s).busy = s.busy := rfl
@[simp] theorem configure_sph (n : Nat) (s : State) : (configure n s).sph = .absorbing := rfl
@[simp] theorem configure_err (n : Nat) (s : State) : (configure n s).err = s.err := rfl
@[simp] theorem configure_rcnt (n : Nat) (s : State) : (configure n s).rcnt = s.rcnt := rfl
@[simp] theorem configure_pend (n : Nat) (s : State) : (configure n s).pend = s.pend := rfl
@[simp] theorem configure_rend (n : Nat) (s : State) : (configure n s).rend = s.rend := rfl
@[simp] theorem configure_program (n : Nat) (s : State) : (configure n s).program = s.program := rfl
@[simp] theorem configure_observed (n : Nat) (s : State) : (configure n s).observed = s.observed := rfl
@[simp] theorem configure_hostError (n : Nat) (s : State) : (configure n s).hostError = s.hostError := rfl
@[simp] theorem configure_turns (n : Nat) (s : State) : (configure n s).turns = s.turns := rfl
@[simp] theorem configure_draws (n : Nat) (s : State) : (configure n s).draws = s.draws := rfl
@[simp] theorem configure_stream (n : Nat) (s : State) : (configure n s).stream = s.stream := rfl

/-! `absorbWords` -/

@[simp] theorem absorbWords_lanes (W : List Word) (s : State) : (absorbWords W s).lanes = xorBlock (rateLanes s) W s.lanes := by rw [absorbWords]
@[simp] theorem absorbWords_blk (W : List Word) (s : State) : (absorbWords W s).blk = s.blk := by rw [absorbWords]
@[simp] theorem absorbWords_outBits (W : List Word) (s : State) : (absorbWords W s).outBits = s.outBits := by rw [absorbWords]
@[simp] theorem absorbWords_rate (W : List Word) (s : State) : (absorbWords W s).rate = s.rate := by rw [absorbWords]
@[simp] theorem absorbWords_busy (W : List Word) (s : State) : (absorbWords W s).busy = s.busy := by rw [absorbWords]
@[simp] theorem absorbWords_sph (W : List Word) (s : State) : (absorbWords W s).sph = s.sph := by rw [absorbWords]
@[simp] theorem absorbWords_err (W : List Word) (s : State) : (absorbWords W s).err = s.err := by rw [absorbWords]
@[simp] theorem absorbWords_rcnt (W : List Word) (s : State) : (absorbWords W s).rcnt = s.rcnt := by rw [absorbWords]
@[simp] theorem absorbWords_pend (W : List Word) (s : State) : (absorbWords W s).pend = s.pend := by rw [absorbWords]
@[simp] theorem absorbWords_rend (W : List Word) (s : State) : (absorbWords W s).rend = s.rend := by rw [absorbWords]
@[simp] theorem absorbWords_program (W : List Word) (s : State) : (absorbWords W s).program = s.program := by rw [absorbWords]
@[simp] theorem absorbWords_observed (W : List Word) (s : State) : (absorbWords W s).observed = s.observed := by rw [absorbWords]
@[simp] theorem absorbWords_hostError (W : List Word) (s : State) : (absorbWords W s).hostError = s.hostError := by rw [absorbWords]
@[simp] theorem absorbWords_turns (W : List Word) (s : State) : (absorbWords W s).turns = s.turns := by rw [absorbWords]
@[simp] theorem absorbWords_draws (W : List Word) (s : State) : (absorbWords W s).draws = s.draws := by rw [absorbWords]
@[simp] theorem absorbWords_stream (W : List Word) (s : State) : (absorbWords W s).stream = s.stream := by rw [absorbWords]

/-! `observe` -/

@[simp] theorem observe_lanes (var : HostVar) (v : Word) (s : State) : (observe var v s).lanes = s.lanes := rfl
@[simp] theorem observe_blk (var : HostVar) (v : Word) (s : State) : (observe var v s).blk = s.blk := rfl
@[simp] theorem observe_outBits (var : HostVar) (v : Word) (s : State) : (observe var v s).outBits = s.outBits := rfl
@[simp] theorem observe_rate (var : HostVar) (v : Word) (s : State) : (observe var v s).rate = s.rate := rfl
@[simp] theorem observe_busy (var : HostVar) (v : Word) (s : State) : (observe var v s).busy = s.busy := rfl
@[simp] theorem observe_sph (var : HostVar) (v : Word) (s : State) : (observe var v s).sph = s.sph := rfl
@[simp] theorem observe_err (var : HostVar) (v : Word) (s : State) : (observe var v s).err = s.err := rfl
@[simp] theorem observe_rcnt (var : HostVar) (v : Word) (s : State) : (observe var v s).rcnt = s.rcnt := rfl
@[simp] theorem observe_pend (var : HostVar) (v : Word) (s : State) : (observe var v s).pend = s.pend := rfl
@[simp] theorem observe_rend (var : HostVar) (v : Word) (s : State) : (observe var v s).rend = s.rend := rfl
@[simp] theorem observe_program (var : HostVar) (v : Word) (s : State) : (observe var v s).program = s.program := rfl
@[simp] theorem observe_observed (var : HostVar) (v : Word) (s : State) : (observe var v s).observed = (var, v) :: s.observed := rfl
@[simp] theorem observe_hostError (var : HostVar) (v : Word) (s : State) : (observe var v s).hostError = s.hostError := rfl
@[simp] theorem observe_turns (var : HostVar) (v : Word) (s : State) : (observe var v s).turns = s.turns := rfl
@[simp] theorem observe_draws (var : HostVar) (v : Word) (s : State) : (observe var v s).draws = s.draws := rfl
@[simp] theorem observe_stream (var : HostVar) (v : Word) (s : State) : (observe var v s).stream = s.stream := rfl

/-! `countDraw` -/

@[simp] theorem countDraw_lanes (s : State) : (countDraw s).lanes = s.lanes := rfl
@[simp] theorem countDraw_blk (s : State) : (countDraw s).blk = s.blk := rfl
@[simp] theorem countDraw_outBits (s : State) : (countDraw s).outBits = s.outBits := rfl
@[simp] theorem countDraw_rate (s : State) : (countDraw s).rate = s.rate := rfl
@[simp] theorem countDraw_busy (s : State) : (countDraw s).busy = s.busy := rfl
@[simp] theorem countDraw_sph (s : State) : (countDraw s).sph = s.sph := rfl
@[simp] theorem countDraw_err (s : State) : (countDraw s).err = s.err := rfl
@[simp] theorem countDraw_rcnt (s : State) : (countDraw s).rcnt = s.rcnt := rfl
@[simp] theorem countDraw_pend (s : State) : (countDraw s).pend = s.pend := rfl
@[simp] theorem countDraw_rend (s : State) : (countDraw s).rend = s.rend := rfl
@[simp] theorem countDraw_program (s : State) : (countDraw s).program = s.program := rfl
@[simp] theorem countDraw_observed (s : State) : (countDraw s).observed = s.observed := rfl
@[simp] theorem countDraw_hostError (s : State) : (countDraw s).hostError = s.hostError := rfl
@[simp] theorem countDraw_turns (s : State) : (countDraw s).turns = s.turns := rfl
@[simp] theorem countDraw_draws (s : State) : (countDraw s).draws = s.draws + 1 := rfl
@[simp] theorem countDraw_stream (s : State) : (countDraw s).stream = s.stream := rfl

/-! `readStatus` -/

@[simp] theorem readStatus_lanes (s : State) : (readStatus s).lanes = s.lanes := rfl
@[simp] theorem readStatus_blk (s : State) : (readStatus s).blk = s.blk := rfl
@[simp] theorem readStatus_outBits (s : State) : (readStatus s).outBits = s.outBits := rfl
@[simp] theorem readStatus_rate (s : State) : (readStatus s).rate = s.rate := rfl
@[simp] theorem readStatus_busy (s : State) : (readStatus s).busy = s.busy := rfl
@[simp] theorem readStatus_sph (s : State) : (readStatus s).sph = s.sph := rfl
@[simp] theorem readStatus_err (s : State) : (readStatus s).err = s.err := rfl
@[simp] theorem readStatus_rcnt (s : State) : (readStatus s).rcnt = s.rcnt := rfl
@[simp] theorem readStatus_pend (s : State) : (readStatus s).pend = s.pend := rfl
@[simp] theorem readStatus_rend (s : State) : (readStatus s).rend = s.rend := rfl
@[simp] theorem readStatus_program (s : State) : (readStatus s).program = s.program := rfl
@[simp] theorem readStatus_observed (s : State) : (readStatus s).observed = (.s, statusWord s) :: s.observed := rfl
@[simp] theorem readStatus_hostError (s : State) : (readStatus s).hostError = s.hostError := rfl
@[simp] theorem readStatus_turns (s : State) : (readStatus s).turns = s.turns := rfl
@[simp] theorem readStatus_draws (s : State) : (readStatus s).draws = s.draws := rfl
@[simp] theorem readStatus_stream (s : State) : (readStatus s).stream = s.stream := rfl

/-! `gotoError` -/

@[simp] theorem gotoError_lanes (s : State) : (gotoError s).lanes = s.lanes := rfl
@[simp] theorem gotoError_blk (s : State) : (gotoError s).blk = s.blk := rfl
@[simp] theorem gotoError_outBits (s : State) : (gotoError s).outBits = s.outBits := rfl
@[simp] theorem gotoError_rate (s : State) : (gotoError s).rate = s.rate := rfl
@[simp] theorem gotoError_busy (s : State) : (gotoError s).busy = s.busy := rfl
@[simp] theorem gotoError_sph (s : State) : (gotoError s).sph = s.sph := rfl
@[simp] theorem gotoError_err (s : State) : (gotoError s).err = s.err := rfl
@[simp] theorem gotoError_rcnt (s : State) : (gotoError s).rcnt = s.rcnt := rfl
@[simp] theorem gotoError_pend (s : State) : (gotoError s).pend = s.pend := rfl
@[simp] theorem gotoError_rend (s : State) : (gotoError s).rend = s.rend := rfl
@[simp] theorem gotoError_program (s : State) : (gotoError s).program = [] := rfl
@[simp] theorem gotoError_observed (s : State) : (gotoError s).observed = s.observed := rfl
@[simp] theorem gotoError_hostError (s : State) : (gotoError s).hostError = true := rfl
@[simp] theorem gotoError_turns (s : State) : (gotoError s).turns = s.turns := rfl
@[simp] theorem gotoError_draws (s : State) : (gotoError s).draws = s.draws := rfl
@[simp] theorem gotoError_stream (s : State) : (gotoError s).stream = s.stream := rfl

/-! `finishRounds` -/

@[simp] theorem finishRounds_lanes (s : State) : (finishRounds s).lanes = s.lanes := rfl
@[simp] theorem finishRounds_blk (s : State) : (finishRounds s).blk = s.blk := rfl
@[simp] theorem finishRounds_outBits (s : State) : (finishRounds s).outBits = s.outBits := rfl
@[simp] theorem finishRounds_rate (s : State) : (finishRounds s).rate = s.rate := rfl
@[simp] theorem finishRounds_busy (s : State) : (finishRounds s).busy = false := rfl
@[simp] theorem finishRounds_sph (s : State) : (finishRounds s).sph = if s.pend = .final then .squeezing else s.sph := rfl
@[simp] theorem finishRounds_err (s : State) : (finishRounds s).err = s.err := rfl
@[simp] theorem finishRounds_rcnt (s : State) : (finishRounds s).rcnt = s.rcnt := rfl
@[simp] theorem finishRounds_pend (s : State) : (finishRounds s).pend = .none := rfl
@[simp] theorem finishRounds_rend (s : State) : (finishRounds s).rend = s.rend := rfl
@[simp] theorem finishRounds_program (s : State) : (finishRounds s).program = s.program := rfl
@[simp] theorem finishRounds_observed (s : State) : (finishRounds s).observed = s.observed := rfl
@[simp] theorem finishRounds_hostError (s : State) : (finishRounds s).hostError = s.hostError := rfl
@[simp] theorem finishRounds_turns (s : State) : (finishRounds s).turns = s.turns := rfl
@[simp] theorem finishRounds_draws (s : State) : (finishRounds s).draws = s.draws := rfl
@[simp] theorem finishRounds_stream (s : State) : (finishRounds s).stream = s.stream := rfl

/-! `applyRound` -/

@[simp] theorem applyRound_lanes (s : State) : (applyRound s).lanes = rnd s.lanes s.rcnt := by rw [applyRound]
@[simp] theorem applyRound_blk (s : State) : (applyRound s).blk = s.blk := by rw [applyRound]
@[simp] theorem applyRound_outBits (s : State) : (applyRound s).outBits = s.outBits := by rw [applyRound]
@[simp] theorem applyRound_rate (s : State) : (applyRound s).rate = s.rate := by rw [applyRound]
@[simp] theorem applyRound_busy (s : State) : (applyRound s).busy = s.busy := by rw [applyRound]
@[simp] theorem applyRound_sph (s : State) : (applyRound s).sph = s.sph := by rw [applyRound]
@[simp] theorem applyRound_err (s : State) : (applyRound s).err = s.err := by rw [applyRound]
@[simp] theorem applyRound_rcnt (s : State) : (applyRound s).rcnt = s.rcnt := by rw [applyRound]
@[simp] theorem applyRound_pend (s : State) : (applyRound s).pend = s.pend := by rw [applyRound]
@[simp] theorem applyRound_rend (s : State) : (applyRound s).rend = s.rend := by rw [applyRound]
@[simp] theorem applyRound_program (s : State) : (applyRound s).program = s.program := by rw [applyRound]
@[simp] theorem applyRound_observed (s : State) : (applyRound s).observed = s.observed := by rw [applyRound]
@[simp] theorem applyRound_hostError (s : State) : (applyRound s).hostError = s.hostError := by rw [applyRound]
@[simp] theorem applyRound_turns (s : State) : (applyRound s).turns = s.turns := by rw [applyRound]
@[simp] theorem applyRound_draws (s : State) : (applyRound s).draws = s.draws := by rw [applyRound]
@[simp] theorem applyRound_stream (s : State) : (applyRound s).stream = s.stream := by rw [applyRound]

/-! `advanceRound` -/

@[simp] theorem advanceRound_lanes (s : State) : (advanceRound s).lanes = s.lanes := rfl
@[simp] theorem advanceRound_blk (s : State) : (advanceRound s).blk = s.blk := rfl
@[simp] theorem advanceRound_outBits (s : State) : (advanceRound s).outBits = s.outBits := rfl
@[simp] theorem advanceRound_rate (s : State) : (advanceRound s).rate = s.rate := rfl
@[simp] theorem advanceRound_busy (s : State) : (advanceRound s).busy = s.busy := rfl
@[simp] theorem advanceRound_sph (s : State) : (advanceRound s).sph = s.sph := rfl
@[simp] theorem advanceRound_err (s : State) : (advanceRound s).err = s.err := rfl
@[simp] theorem advanceRound_rcnt (s : State) : (advanceRound s).rcnt = nextRound s.rcnt := rfl
@[simp] theorem advanceRound_pend (s : State) : (advanceRound s).pend = s.pend := rfl
@[simp] theorem advanceRound_rend (s : State) : (advanceRound s).rend = s.rend := rfl
@[simp] theorem advanceRound_program (s : State) : (advanceRound s).program = s.program := rfl
@[simp] theorem advanceRound_observed (s : State) : (advanceRound s).observed = s.observed := rfl
@[simp] theorem advanceRound_hostError (s : State) : (advanceRound s).hostError = s.hostError := rfl
@[simp] theorem advanceRound_turns (s : State) : (advanceRound s).turns = s.turns := rfl
@[simp] theorem advanceRound_draws (s : State) : (advanceRound s).draws = s.draws := rfl
@[simp] theorem advanceRound_stream (s : State) : (advanceRound s).stream = s.stream := rfl

/-! `resetEngine` -/

@[simp] theorem resetEngine_lanes (s : State) : (resetEngine s).lanes = zeroLanes := rfl
@[simp] theorem resetEngine_blk (s : State) : (resetEngine s).blk = Vector.replicate 17 0#64 := rfl
@[simp] theorem resetEngine_outBits (s : State) : (resetEngine s).outBits = 0 := rfl
@[simp] theorem resetEngine_rate (s : State) : (resetEngine s).rate = 0 := rfl
@[simp] theorem resetEngine_busy (s : State) : (resetEngine s).busy = false := rfl
@[simp] theorem resetEngine_sph (s : State) : (resetEngine s).sph = .unconfigured := rfl
@[simp] theorem resetEngine_err (s : State) : (resetEngine s).err = .ok := rfl
@[simp] theorem resetEngine_rcnt (s : State) : (resetEngine s).rcnt = 0 := rfl
@[simp] theorem resetEngine_pend (s : State) : (resetEngine s).pend = .none := rfl
@[simp] theorem resetEngine_rend (s : State) : (resetEngine s).rend = 0 := rfl
@[simp] theorem resetEngine_program (s : State) : (resetEngine s).program = s.program := rfl
@[simp] theorem resetEngine_observed (s : State) : (resetEngine s).observed = s.observed := rfl
@[simp] theorem resetEngine_hostError (s : State) : (resetEngine s).hostError = s.hostError := rfl
@[simp] theorem resetEngine_turns (s : State) : (resetEngine s).turns = s.turns := rfl
@[simp] theorem resetEngine_draws (s : State) : (resetEngine s).draws = s.draws := rfl
@[simp] theorem resetEngine_stream (s : State) : (resetEngine s).stream = s.stream := rfl

end Sys2Proof.Machine
end

