-- ==== Sys2Proof/Laws/Engine.lean ====
section
/-!
SUPPORT. What an engine step can do, said once, and what it leaves unchanged.
-/

namespace Sys2Proof.Machine

theorem engineStep_idle {s : State} (h : s.busy = false) : engineStep s = s := by
  simp [engineStep, h]

theorem engineStep_last {s : State} (h : s.busy = true) (e : s.rcnt = s.rend) :
    engineStep s = finishRounds (applyRound s) := by
  simp [engineStep, h, e]

theorem engineStep_more {s : State} (h : s.busy = true) (e : s.rcnt ≠ s.rend) :
    engineStep s = advanceRound (applyRound s) := by
  simp [engineStep, h, e]

/-- RCNT grows by exactly 1 below 23. -/
theorem nextRound_val {r : Fin 24} (h : r.val + 1 < 24) : (nextRound r).val = r.val + 1 := by
  simp only [nextRound]; omega

/-- The three cases of an engine step. -/
theorem engineStep_cases (s : State) :
    (s.busy = false ∧ engineStep s = s) ∨
    (s.busy = true ∧ s.rcnt = s.rend ∧
      engineStep s = finishRounds (applyRound s)) ∨
    (s.busy = true ∧ s.rcnt ≠ s.rend ∧
      engineStep s = advanceRound (applyRound s)) := by
  cases h : s.busy with
  | false => exact .inl ⟨rfl, engineStep_idle h⟩
  | true =>
    by_cases e : s.rcnt = s.rend
    · exact .inr (.inl ⟨rfl, e, engineStep_last h e⟩)
    · exact .inr (.inr ⟨rfl, e, engineStep_more h e⟩)

@[simp] theorem engineStep_blk (s : State) : (engineStep s).blk = s.blk := by
  rcases engineStep_cases s with ⟨-, e⟩ | ⟨-, -, e⟩ | ⟨-, -, e⟩ <;> simp [e]

@[simp] theorem engineStep_outBits (s : State) : (engineStep s).outBits = s.outBits := by
  rcases engineStep_cases s with ⟨-, e⟩ | ⟨-, -, e⟩ | ⟨-, -, e⟩ <;> simp [e]

@[simp] theorem engineStep_rate (s : State) : (engineStep s).rate = s.rate := by
  rcases engineStep_cases s with ⟨-, e⟩ | ⟨-, -, e⟩ | ⟨-, -, e⟩ <;> simp [e]

@[simp] theorem engineStep_err (s : State) : (engineStep s).err = s.err := by
  rcases engineStep_cases s with ⟨-, e⟩ | ⟨-, -, e⟩ | ⟨-, -, e⟩ <;> simp [e]

@[simp] theorem engineStep_rend (s : State) : (engineStep s).rend = s.rend := by
  rcases engineStep_cases s with ⟨-, e⟩ | ⟨-, -, e⟩ | ⟨-, -, e⟩ <;> simp [e]

@[simp] theorem engineStep_program (s : State) : (engineStep s).program = s.program := by
  rcases engineStep_cases s with ⟨-, e⟩ | ⟨-, -, e⟩ | ⟨-, -, e⟩ <;> simp [e]

@[simp] theorem engineStep_observed (s : State) : (engineStep s).observed = s.observed := by
  rcases engineStep_cases s with ⟨-, e⟩ | ⟨-, -, e⟩ | ⟨-, -, e⟩ <;> simp [e]

@[simp] theorem engineStep_hostError (s : State) : (engineStep s).hostError = s.hostError := by
  rcases engineStep_cases s with ⟨-, e⟩ | ⟨-, -, e⟩ | ⟨-, -, e⟩ <;> simp [e]

@[simp] theorem engineStep_turns (s : State) : (engineStep s).turns = s.turns := by
  rcases engineStep_cases s with ⟨-, e⟩ | ⟨-, -, e⟩ | ⟨-, -, e⟩ <;> simp [e]

@[simp] theorem engineStep_draws (s : State) : (engineStep s).draws = s.draws := by
  rcases engineStep_cases s with ⟨-, e⟩ | ⟨-, -, e⟩ | ⟨-, -, e⟩ <;> simp [e]

@[simp] theorem engineStep_stream (s : State) : (engineStep s).stream = s.stream := by
  rcases engineStep_cases s with ⟨-, e⟩ | ⟨-, -, e⟩ | ⟨-, -, e⟩ <;> simp [e]

/-- The engine steps that end a command's rounds: rounds RCNT to REND, applied in order. -/
theorem iterate_engineStep_rounds (k : Nat) (s : State) (hb : s.busy = true)
    (hk : s.rcnt.val + k = s.rend.val) :
    engineStep^[k + 1] s = finishRounds
      { s with
        lanes := (((List.finRange 24).drop s.rcnt.val).take (k + 1)).foldl rnd s.lanes,
        rcnt := s.rend } := by
  induction k generalizing s with
  | zero =>
    have e : s.rcnt = s.rend := Fin.ext (by omega)
    have hl : ((List.finRange 24).drop s.rcnt.val).take 1 = [s.rcnt] := by
      rw [List.drop_eq_getElem_cons (by simp)]; simp
    simp only [Nat.zero_add, hl, List.foldl, Function.iterate_one]
    rw [engineStep_last hb e]
    apply State.ext <;> simp [e]
  | succ k ih =>
    have hlt := s.rend.isLt
    have e : s.rcnt ≠ s.rend := fun e => by rw [e] at hk; omega
    have hn : (nextRound s.rcnt).val = s.rcnt.val + 1 := nextRound_val (by omega)
    have hl : ((List.finRange 24).drop s.rcnt.val).take (k + 1 + 1) =
        s.rcnt :: ((List.finRange 24).drop (s.rcnt.val + 1)).take (k + 1) := by
      rw [List.drop_eq_getElem_cons (by simp)]; simp
    rw [Function.iterate_succ_apply, engineStep_more hb e, hl, List.foldl_cons,
      ih (advanceRound (applyRound s)) (by simpa) (by simp [hn]; omega)]
    apply State.ext <;> simp [hn]

end Sys2Proof.Machine
end

