-- ==== Sys2Proof/Laws/Ops.lean ====
section
/-!
SUPPORT. What the shared operations and the commands can do, said once: a command is rejected for BUSY
while BUSY = 1, and while idle it is rejected with a code of its own or accepted with its effect.
-/

namespace Sys2Proof.Machine

theorem guardIdle_busy {s : State} (h : s.busy = true) (r : Result) :
    guardIdle s r = .next (cmdRejected .busy s) := by
  simp [guardIdle, h]

theorem guardIdle_idle {s : State} (h : s.busy = false) (r : Result) : guardIdle s r = r := by
  simp [guardIdle, h]

theorem writeLane_busy {s : State} (h : s.busy = true) (i : Fin 25) (v : Word) :
    writeLane i v s = cmdRejected .busy s := by
  simp [writeLane, h]

theorem writeLane_idle {s : State} (h : s.busy = false) (i : Fin 25) (v : Word) :
    writeLane i v s = { s with lanes := s.lanes.set i.val v i.isLt } := by
  simp [writeLane, h]

theorem writeBlk_busy {s : State} (h : s.busy = true) (j : Fin 17) (v : Word) :
    writeBlk j v s = cmdRejected .busy s := by
  simp [writeBlk, h]

theorem writeBlk_idle {s : State} (h : s.busy = false) (j : Fin 17) (v : Word) :
    writeBlk j v s = { s with blk := s.blk.set j.val v j.isLt } := by
  simp [writeBlk, h]

theorem supportedOutBits_iff (n : Nat) : supportedOutBits n = true ↔ n ∈ [256, 384, 512] := by
  simp [supportedOutBits, or_assoc]

/-- Every command written while BUSY = 1 is rejected with code 6. -/
theorem exec_busy {s : State} (h : s.busy = true) (i : Instr) :
    exec i s = .next (cmdRejected .busy s) := by
  cases i <;>
    simp only [exec, execNop, execInit, execAbsorb, execFinal, execPermute, execRound,
      guardIdle_busy h]

theorem exec_nop_idle {s : State} (h : s.busy = false) : exec .nop s = .next (accept s) := by
  simp only [exec, execNop, guardIdle_idle h]

theorem exec_init_supported {s : State} {n : Nat} (h : s.busy = false) (hn : n ∈ [256, 384, 512]) :
    exec (.init n) s = .next (configure n (accept s)) := by
  simp only [exec, execInit, guardIdle_idle h, (supportedOutBits_iff n).2 hn, if_true]

theorem exec_init_unsupported {s : State} {n : Nat} (h : s.busy = false)
    (hn : n ∉ [256, 384, 512]) :
    exec (.init n) s = .next (cmdRejected .invalidParameter s) := by
  simp only [exec, execInit, guardIdle_idle h]
  rw [if_neg (mt (supportedOutBits_iff n).1 hn)]

theorem exec_absorb_absorbing {s : State} (h : s.busy = false) (hp : s.sph = .absorbing) :
    exec .absorb s = .next (startRounds .absorb 0 23 (absorbWords s.blk.toList (accept s))) := by
  simp only [exec, execAbsorb, guardIdle_idle h]
  rw [if_neg (not_not.2 hp)]

theorem exec_absorb_badSequence {s : State} (h : s.busy = false) (hp : s.sph ≠ .absorbing) :
    exec .absorb s = .next (cmdRejected .badSequence s) := by
  simp only [exec, execAbsorb, guardIdle_idle h]
  rw [if_pos hp]

theorem exec_final_absorbing {s : State} {len : Nat} (h : s.busy = false)
    (hp : s.sph = .absorbing) (hl : len < s.rate.toNat) :
    exec (.final len) s = .next
      (startRounds .final 0 23 (absorbWords (padBlock s.blk len s.rate.toNat) (accept s))) := by
  simp only [exec, execFinal, guardIdle_idle h]
  rw [if_neg (not_not.2 hp), if_neg (Nat.not_le.2 hl)]

theorem exec_final_badSequence {s : State} {len : Nat} (h : s.busy = false)
    (hp : s.sph ≠ .absorbing) : exec (.final len) s = .next (cmdRejected .badSequence s) := by
  simp only [exec, execFinal, guardIdle_idle h]
  rw [if_pos hp]

theorem exec_final_badLength {s : State} {len : Nat} (h : s.busy = false)
    (hp : s.sph = .absorbing) (hl : s.rate.toNat ≤ len) :
    exec (.final len) s = .next (cmdRejected .badLength s) := by
  simp only [exec, execFinal, guardIdle_idle h]
  rw [if_neg (not_not.2 hp), if_pos hl]

theorem exec_permute_idle {s : State} (h : s.busy = false) :
    exec .permute s = .next (startRounds .permute 0 23 (accept s)) := by
  simp only [exec, execPermute, guardIdle_idle h]

theorem exec_round_index {s : State} (h : s.busy = false) (r : Fin 24) :
    exec (.round r.val) s = .next (startRounds .round r r (accept s)) := by
  simp only [exec, execRound, guardIdle_idle h]
  rw [dif_pos (by omega)]

theorem exec_round_badRound {s : State} {ridx : Nat} (h : s.busy = false) (hr : 23 < ridx) :
    exec (.round ridx) s = .next (cmdRejected .badRound s) := by
  simp only [exec, execRound, guardIdle_idle h]
  rw [dif_neg (by omega)]

/-- What a command accepted in `s` does at its CMD write. -/
inductive Accepted : Instr → State → State → Prop where
  | nop (s : State) : Accepted .nop s (accept s)
  | init (s : State) (n : Nat) : n ∈ [256, 384, 512] → Accepted (.init n) s (configure n (accept s))
  | absorb (s : State) : s.sph = .absorbing →
      Accepted .absorb s (startRounds .absorb 0 23 (absorbWords s.blk.toList (accept s)))
  | final (s : State) (len : Nat) : s.sph = .absorbing → len < s.rate.toNat →
      Accepted (.final len) s
        (startRounds .final 0 23 (absorbWords (padBlock s.blk len s.rate.toNat) (accept s)))
  | permute (s : State) : Accepted .permute s (startRounds .permute 0 23 (accept s))
  | round (s : State) (r : Fin 24) : Accepted (.round r.val) s (startRounds .round r r (accept s))

/-- While idle a command is rejected with a code that is neither 0 nor 6, or accepted. -/
theorem exec_idle {s : State} (h : s.busy = false) (i : Instr) :
    (∃ c, c ≠ .ok ∧ c ≠ .busy ∧ exec i s = .next (cmdRejected c s)) ∨
    ∃ t, exec i s = .next t ∧ Accepted i s t := by
  cases i with
  | nop => exact .inr ⟨_, exec_nop_idle h, .nop s⟩
  | init n =>
    by_cases hn : n ∈ [256, 384, 512]
    · exact .inr ⟨_, exec_init_supported h hn, .init s n hn⟩
    · exact .inl ⟨.invalidParameter, by decide, by decide, exec_init_unsupported h hn⟩
  | absorb =>
    by_cases hp : s.sph = .absorbing
    · exact .inr ⟨_, exec_absorb_absorbing h hp, .absorb s hp⟩
    · exact .inl ⟨.badSequence, by decide, by decide, exec_absorb_badSequence h hp⟩
  | final len =>
    by_cases hp : s.sph = .absorbing
    · by_cases hl : s.rate.toNat ≤ len
      · exact .inl ⟨.badLength, by decide, by decide, exec_final_badLength h hp hl⟩
      · exact .inr ⟨_, exec_final_absorbing h hp (by omega), .final s len hp (by omega)⟩
    · exact .inl ⟨.badSequence, by decide, by decide, exec_final_badSequence h hp⟩
  | permute => exact .inr ⟨_, exec_permute_idle h, .permute s⟩
  | round ridx =>
    by_cases hr : ridx ≤ 23
    · exact .inr ⟨_, exec_round_index h ⟨ridx, by omega⟩, .round s ⟨ridx, by omega⟩⟩
    · exact .inl ⟨.badRound, by decide, by decide, exec_round_badRound h (by omega)⟩

/-- Acceptance writes ERR 0. -/
theorem Accepted.err_ok {i : Instr} {s t : State} (h : Accepted i s t) : t.err = .ok := by
  cases h <;> simp

/-- A command always answers a next state: it neither faults nor refuses. -/
theorem exec_answers (i : Instr) (s : State) : ∃ t, exec i s = .next t := by
  by_cases h : s.busy = true
  · exact ⟨_, exec_busy h i⟩
  · rcases exec_idle (Bool.eq_false_iff.2 h) i with ⟨c, -, -, e⟩ | ⟨t, e, -⟩
    · exact ⟨_, e⟩
    · exact ⟨t, e⟩

/-- The three cases of a command's next state. -/
theorem exec_cases {i : Instr} {s t : State} (e : exec i s = .next t) :
    (s.busy = true ∧ t = cmdRejected .busy s) ∨
    (s.busy = false ∧ ∃ c, c ≠ .ok ∧ c ≠ .busy ∧ t = cmdRejected c s) ∨
    (s.busy = false ∧ Accepted i s t) := by
  cases h : s.busy with
  | true =>
    rw [exec_busy h] at e
    exact .inl ⟨rfl, (Host.Outcome.next.inj e).symm⟩
  | false =>
    rcases exec_idle h i with ⟨c, hc, hb, e'⟩ | ⟨u, e', a⟩
    · rw [e'] at e
      exact .inr (.inl ⟨rfl, c, hc, hb, (Host.Outcome.next.inj e).symm⟩)
    · rw [e'] at e
      cases Host.Outcome.next.inj e
      exact .inr (.inr ⟨rfl, a⟩)

end Sys2Proof.Machine
end

