-- ==== Sys2Proof/Laws/Padding.lean ====
section
/-!
SUPPORT. The length and every byte of the two padding functions.
-/

namespace Sys2Proof.Machine

theorem length_pad (x : List Byte) (r : Nat) (h : 1 ≤ r) :
    (pad x r).length = r * (x.length / r + 1) := by
  have h1 := Nat.div_add_mod x.length r
  have h2 := Nat.mod_lt x.length h
  have h3 : r * (x.length / r + 1) = r * (x.length / r) + r := Nat.mul_succ _ _
  simp [pad]; omega

/-- Byte `k` of the padded message: the message, the delimiter after it, zeros, and the terminal XOR at
the last byte. -/
theorem getD_pad (x : List Byte) (r : Nat) (h : 1 ≤ r) (k : Nat) :
    (pad x r).getD k 0 =
      (if k < x.length then x.getD k 0 else if k = x.length then 0x01#8 else 0#8) ^^^
        (if k = r * (x.length / r + 1) - 1 then 0x80#8 else 0#8) := by
  have h1 := Nat.div_add_mod x.length r
  have h2 := Nat.mod_lt x.length h
  have h3 : r * (x.length / r + 1) = r * (x.length / r) + r := Nat.mul_succ _ _
  by_cases hk : k < r * (x.length / r + 1)
  · rw [List.getD_eq_getElem _ _ (by rw [length_pad x r h]; exact hk)]
    simp only [pad, List.getElem_modify, List.getElem_set, List.getElem_append,
      List.getElem_replicate, eq_comm (b := k)]
    have e : (if k = x.length then delimiter else if h : k < x.length then x[k] else 0#8) =
        (if k < x.length then x.getD k 0 else if k = x.length then 0x01#8 else 0#8) := by
      by_cases a : k < x.length
      · simp [a, Nat.ne_of_lt a]
      · simp [a, delimiter]
    rw [e]
    split <;> simp [terminal]
  · rw [List.getD_eq_default _ _ (by rw [length_pad x r h]; omega), if_neg (by omega),
      if_neg (by omega), if_neg (by omega)]
    rfl

theorem length_padBytes (blk : Block) (len rate : Nat) : (padBytes blk len rate).length = rate := by
  simp [padBytes]

/-- Byte `k` of the padded final block. -/
theorem getD_padBytes (blk : Block) (len rate k : Nat) (hk : k < rate) :
    (padBytes blk len rate).getD k 0 =
      (if k < len then blkByte blk k else if k = len then 0x01#8 else 0#8) ^^^
        (if k = rate - 1 then 0x80#8 else 0#8) := by
  rw [List.getD_eq_getElem _ _ (by rw [length_padBytes]; exact hk)]
  simp only [padBytes, List.getElem_modify, List.getElem_set, List.getElem_map,
    List.getElem_range, eq_comm (b := k)]
  have e : (if k = len then delimiter else if k < len then blkByte blk k else 0#8) =
      (if k < len then blkByte blk k else if k = len then 0x01#8 else 0#8) := by
    by_cases a : k < len
    · simp [a, Nat.ne_of_lt a]
    · simp [a, delimiter]
  rw [e]
  split <;> simp [terminal]

end Sys2Proof.Machine
end

