-- ==== Sys2Proof/Laws/PerInstr.lean ====
section
/-!
SUPPORT. Statements made once per command: the encoding of a well-formed command selects the row of the
opcode map that bears its mnemonic (30_encoding.md R73).
-/

namespace Sys2Proof.Laws.SelectsRow

/-- The encoding of the command selects its row. -/
def Statement (i : Instr) : Prop :=
  i.wf = true → ∃ row, rowOf i = some row ∧ row.selects (encode i) = true

/-- A field value placed under a mask that is 0 on the field leaves the pattern. -/
theorem masked_operand (p m : Word) (v lo width : Nat) (hv : v < 2 ^ width) (hp : p &&& m = p)
    (hm : ∀ i, i < 64 → lo ≤ i → i < lo + width → m.getLsbD i = false) :
    (p ||| placeField v lo) &&& m = p := by
  refine BitVec.eq_of_getLsbD_eq fun i hi => ?_
  have hpi := congrArg (fun w => w.getLsbD i) hp
  simp only [BitVec.getLsbD_and] at hpi
  have hz : (placeField v lo).getLsbD i = true → m.getLsbD i = false := by
    intro h
    simp only [placeField, BitVec.getLsbD_shiftLeft, BitVec.getLsbD_ofNat, Bool.and_eq_true,
      decide_eq_true_eq, Bool.not_eq_true', decide_eq_false_iff_not] at h
    obtain ⟨⟨-, h1⟩, -, h2⟩ := h
    refine hm i hi (by omega) ?_
    by_contra h3
    rw [Nat.testBit_lt_two_pow (lt_of_lt_of_le hv (Nat.pow_le_pow_right (by decide) (by omega)))] at h2
    cases h2
  simp only [BitVec.getLsbD_and, BitVec.getLsbD_or]
  cases hb : (placeField v lo).getLsbD i with
  | false => simpa using hpi
  | true => rw [hz hb] at hpi ⊢; simpa using hpi

theorem nop : Statement .nop := fun _ => ⟨_, rfl, by decide⟩

theorem init (n : Nat) : Statement (.init n) := fun h =>
  ⟨_, rfl, beq_iff_eq.2 (masked_operand _ _ n 16 16 (of_decide_eq_true h) (by decide)
    (by decide))⟩

theorem absorb : Statement .absorb := fun _ => ⟨_, rfl, by decide⟩

theorem final (n : Nat) : Statement (.final n) := fun h =>
  ⟨_, rfl, beq_iff_eq.2 (masked_operand _ _ n 8 8 (of_decide_eq_true h) (by decide)
    (by decide))⟩

theorem permute : Statement .permute := fun _ => ⟨_, rfl, by decide⟩

theorem round (n : Nat) : Statement (.round n) := fun h =>
  ⟨_, rfl, beq_iff_eq.2 (masked_operand _ _ n 8 8 (of_decide_eq_true h) (by decide)
    (by decide))⟩

end Sys2Proof.Laws.SelectsRow
end

