-- ==== Sys2Proof/Laws/Platform.lean ====
section
/-!
SUPPORT. What the platform's updates do to each field, and what a step of an instance and of a shared
engine can do.
-/

namespace Sys2Proof.Machine

/-! `asInstance` -/

@[simp] theorem asInstance_lanes (k : Nat) (s : State) : (asInstance k s).lanes = s.lanes := rfl
@[simp] theorem asInstance_blk (k : Nat) (s : State) : (asInstance k s).blk = s.blk := rfl
@[simp] theorem asInstance_outBits (k : Nat) (s : State) : (asInstance k s).outBits = s.outBits := rfl
@[simp] theorem asInstance_rate (k : Nat) (s : State) : (asInstance k s).rate = s.rate := rfl
@[simp] theorem asInstance_busy (k : Nat) (s : State) : (asInstance k s).busy = s.busy := rfl
@[simp] theorem asInstance_sph (k : Nat) (s : State) : (asInstance k s).sph = s.sph := rfl
@[simp] theorem asInstance_err (k : Nat) (s : State) : (asInstance k s).err = s.err := rfl
@[simp] theorem asInstance_rcnt (k : Nat) (s : State) : (asInstance k s).rcnt = s.rcnt := rfl
@[simp] theorem asInstance_pend (k : Nat) (s : State) : (asInstance k s).pend = s.pend := rfl
@[simp] theorem asInstance_rend (k : Nat) (s : State) : (asInstance k s).rend = s.rend := rfl
@[simp] theorem asInstance_program (k : Nat) (s : State) : (asInstance k s).program = s.program := rfl
@[simp] theorem asInstance_observed (k : Nat) (s : State) : (asInstance k s).observed = s.observed := rfl
@[simp] theorem asInstance_hostError (k : Nat) (s : State) : (asInstance k s).hostError = s.hostError := rfl
@[simp] theorem asInstance_turns (k : Nat) (s : State) : (asInstance k s).turns = s.turns := rfl
@[simp] theorem asInstance_draws (k : Nat) (s : State) : (asInstance k s).draws = s.draws := rfl
@[simp] theorem asInstance_stream (k : Nat) (s : State) : (asInstance k s).stream = k := rfl

/-! `State.withHost` and `State.hostView` -/

@[simp] theorem withHost_lanes (s : State) (v : HostView) : (s.withHost v).lanes = s.lanes := rfl
@[simp] theorem withHost_blk (s : State) (v : HostView) : (s.withHost v).blk = s.blk := rfl
@[simp] theorem withHost_outBits (s : State) (v : HostView) : (s.withHost v).outBits = s.outBits := rfl
@[simp] theorem withHost_rate (s : State) (v : HostView) : (s.withHost v).rate = s.rate := rfl
@[simp] theorem withHost_busy (s : State) (v : HostView) : (s.withHost v).busy = s.busy := rfl
@[simp] theorem withHost_sph (s : State) (v : HostView) : (s.withHost v).sph = s.sph := rfl
@[simp] theorem withHost_err (s : State) (v : HostView) : (s.withHost v).err = s.err := rfl
@[simp] theorem withHost_rcnt (s : State) (v : HostView) : (s.withHost v).rcnt = s.rcnt := rfl
@[simp] theorem withHost_pend (s : State) (v : HostView) : (s.withHost v).pend = s.pend := rfl
@[simp] theorem withHost_rend (s : State) (v : HostView) : (s.withHost v).rend = s.rend := rfl
@[simp] theorem withHost_program (s : State) (v : HostView) : (s.withHost v).program = v.program := rfl
@[simp] theorem withHost_observed (s : State) (v : HostView) : (s.withHost v).observed = v.observed := rfl
@[simp] theorem withHost_hostError (s : State) (v : HostView) : (s.withHost v).hostError = v.hostError := rfl
@[simp] theorem withHost_turns (s : State) (v : HostView) : (s.withHost v).turns = s.turns := rfl
@[simp] theorem withHost_draws (s : State) (v : HostView) : (s.withHost v).draws = s.draws := rfl
@[simp] theorem withHost_stream (s : State) (v : HostView) : (s.withHost v).stream = s.stream := rfl
@[simp] theorem hostView_program (s : State) : s.hostView.program = s.program := rfl
@[simp] theorem hostView_observed (s : State) : s.hostView.observed = s.observed := rfl
@[simp] theorem hostView_hostError (s : State) : s.hostView.hostError = s.hostError := rfl
@[simp] theorem hostView_withHost (s : State) (v : HostView) : (s.withHost v).hostView = v := rfl
@[simp] theorem withHost_hostView (s : State) : s.withHost s.hostView = s := rfl
@[simp] theorem withHost_withHost (s : State) (v w : HostView) : (s.withHost v).withHost w = s.withHost w := rfl

/-! What the steps can do -/

/-- A step of an instance puts the machine's next state, or the state it was in, in its place. -/
theorem stepInstance_cases {n : Nat} (k : Fin n) (p : Platform n) :
    (∃ t, step (asInstance k.val p[k]) = .next t ∧ stepInstance k p = p.set k.val t k.isLt) ∨
    ((∀ t, step (asInstance k.val p[k]) ≠ .next t) ∧ stepInstance k p = p) := by
  unfold stepInstance
  cases step (asInstance k.val p[k]) with
  | next t => exact .inl ⟨t, rfl, rfl⟩
  | fault f => exact .inr ⟨nofun, rfl⟩
  | refused r => exact .inr ⟨nofun, rfl⟩

/-- A host's turn at a shared engine ends as its turn at the machine with its own view does. -/
theorem stepShared_host_cases {n : Nat} (h : Fin n) (m : SharedEngine n) :
    (∃ t, hostTurn (m.engine.withHost m.hosts[h]) = .next t ∧
      stepShared (.host h) m = .next (m.afterHost h t)) ∨
    (∃ f, hostTurn (m.engine.withHost m.hosts[h]) = .fault f ∧ stepShared (.host h) m = .fault f) ∨
    ∃ r, hostTurn (m.engine.withHost m.hosts[h]) = .refused r ∧ stepShared (.host h) m = .refused r := by
  rw [stepShared]
  cases hostTurn (m.engine.withHost m.hosts[h]) with
  | next t => exact .inl ⟨t, rfl, rfl⟩
  | fault f => exact .inr (.inl ⟨f, rfl, rfl⟩)
  | refused r => exact .inr (.inr ⟨r, rfl, rfl⟩)

@[simp] theorem afterHost_engine {n : Nat} (m : SharedEngine n) (h : Fin n) (t : State) :
    (m.afterHost h t).engine = t.withHost m.engine.hostView := rfl

theorem afterHost_hosts {n : Nat} (m : SharedEngine n) (h j : Fin n) (t : State) :
    (m.afterHost h t).hosts[j] = if h = j then t.hostView else m.hosts[j] := by
  simp [SharedEngine.afterHost, Vector.getElem_set, Fin.ext_iff]

end Sys2Proof.Machine
end

