-- ==== Sys2Proof/Laws/Step.lean ====
section
/-!
SUPPORT. What a step can do, said once: one lemma per kind of turn, the cases of the host's turn, and
the composition of runs.
-/

namespace Sys2Proof

open Sys2Proof.Machine

/-- The state with the next turn used up. -/
abbrev turnUsed (s : State) : State := { s with turns := (nextTurn s).2 }

theorem nextTurn_cons {s : State} {t : Turn} {rest : List Turn} (h : s.turns = t :: rest) :
    nextTurn s = (t, rest) := by
  simp [nextTurn, h]

theorem nextTurn_nil {s : State} (h : s.turns = []) :
    nextTurn s = (if s.busy then .engine else .host, []) := by
  simp [nextTurn, h]

/-- A turn of the engine. -/
theorem step_engine {s : State} (h : (nextTurn s).1 = .engine) :
    step s = .next (engineStep (turnUsed s)) := by
  simp [step, stepTurn, takeTurn, h]

/-- A turn of the host. -/
theorem step_host {s : State} (h : (nextTurn s).1 = .host) : step s = hostTurn (turnUsed s) := by
  simp [step, stepTurn, takeTurn, h]

/-- A reset. -/
theorem step_reset {s : State} (h : (nextTurn s).1 = .reset) :
    step s = .next (resetEngine (turnUsed s)) := by
  simp [step, stepTurn, takeTurn, h]

/-- With no turn fixed, a busy machine takes an engine step and changes nothing else. -/
theorem step_default_busy {s : State} (h : s.turns = []) (hb : s.busy = true) :
    step s = .next (engineStep s) := by
  have e : turnUsed s = s := by cases s; simp_all [turnUsed, nextTurn]
  rw [step_engine (by simp [nextTurn_nil h, hb]), e]

/-- Every write of a register answers a next state. -/
theorem writeReg_answers (r : Reg) (v : Word) (s : State) : ∃ t, writeReg r v s = .next t := by
  cases r with
  | lane i => exact ⟨_, rfl⟩
  | blk j => exact ⟨_, rfl⟩
  | status => exact ⟨_, rfl⟩
  | config => exact ⟨_, rfl⟩
  | cmd =>
    show ∃ t, guardIdle s _ = .next t
    by_cases h : s.busy = true
    · exact ⟨_, guardIdle_busy h _⟩
    · rw [guardIdle_idle (Bool.eq_false_iff.2 h)]
      cases decode v with
      | error e => exact ⟨_, rfl⟩
      | ok i => exact exec_answers i s

/-- The write of CMD with a word that decodes is the command itself, BUSY or not. -/
theorem writeReg_cmd_of_decode {w : Word} {i : Instr} (h : decode w = .ok i) (s : State) :
    writeReg .cmd w s = exec i s := by
  show guardIdle s _ = _
  by_cases hb : s.busy = true
  · rw [guardIdle_busy hb, exec_busy hb]
  · rw [guardIdle_idle (Bool.eq_false_iff.2 hb)]; simp [h]

/-- The write of CMD with a word that does not decode. -/
theorem writeReg_cmd_of_illegal {w : Word} {e : Illegal} (h : decode w = .error e) (s : State) :
    writeReg .cmd w s = .next (cmdRejected (if s.busy then .busy else .illegalCommand) s) := by
  show guardIdle s _ = _
  cases hb : s.busy with
  | true => rw [guardIdle_busy hb]; simp
  | false => rw [guardIdle_idle hb]; simp [h]

/-- The state a statement is performed in differs from `s` in the program and the turns only. -/
theorem HostPerforms.state {s s0 : State} {st : HostStmt} (h : HostPerforms s st s0) :
    ∃ rest, s.program = st :: rest ∧ s0 = { turnUsed s with program := rest } ∧
      step s = hostTurn (turnUsed s) := by
  obtain ⟨ht, rest, hp, rfl⟩ := h
  exact ⟨rest, hp, rfl, step_host ht⟩

/-- A step whose host turn writes. -/
theorem step_wr {s s0 : State} {width off : Nat} {v : Word}
    (h : HostPerforms s (.wr width off v) s0) :
    step s = match accessReg width off with
      | none => .fault (.busError off)
      | some r => writeReg r v s0 := by
  obtain ⟨rest, hp, rfl, e⟩ := h.state
  rw [e, hostTurn, show (turnUsed s).program = _ from hp] <;> rfl

/-- A step whose host turn reads. -/
theorem step_rd {s s0 : State} {var : HostVar} {width off : Nat}
    (h : HostPerforms s (.rd var width off) s0) :
    step s = match accessReg width off with
      | none => .fault (.busError off)
      | some r => .next (observe var (readReg r (turnUsed s)) (afterRead r s0)) := by
  obtain ⟨rest, hp, rfl, e⟩ := h.state
  rw [e, hostTurn, show (turnUsed s).program = _ from hp] <;> rfl

/-- A step whose host turn is WAIT. -/
theorem step_wait {s s0 : State} (h : HostPerforms s .wait s0) :
    step s = if field (statusWord s) 0 0 = 1 then .next (readStatus (turnUsed s))
      else .next (readStatus s0) := by
  obtain ⟨rest, hp, rfl, e⟩ := h.state
  rw [e, hostTurn, show (turnUsed s).program = _ from hp]; rfl

/-- A step whose host turn is CHECK. -/
theorem step_check {s s0 : State} (h : HostPerforms s .check s0) :
    step s = if field (statusWord s) 7 4 ≠ 0 then .next (gotoError (readStatus (turnUsed s)))
      else .next (readStatus s0) := by
  obtain ⟨rest, hp, rfl, e⟩ := h.state
  rw [e, hostTurn, show (turnUsed s).program = _ from hp]; rfl

/-- Everything a step that answers a next state can have done. -/
theorem step_cases {s t : State} (e : step s = .next t) :
    ((nextTurn s).1 = .engine ∧ t = engineStep (turnUsed s)) ∨
    ((nextTurn s).1 = .reset ∧ t = resetEngine (turnUsed s)) ∨
    ((nextTurn s).1 = .host ∧ s.program = [] ∧ t = turnUsed s) ∨
    (∃ off r v s0, HostPerforms s (.wr 8 off v) s0 ∧ accessReg 8 off = some r ∧
      writeReg r v s0 = .next t) ∨
    (∃ off r var s0, HostPerforms s (.rd var 8 off) s0 ∧ accessReg 8 off = some r ∧
      t = observe var (readReg r (turnUsed s)) (afterRead r s0)) ∨
    (∃ s0, HostPerforms s .wait s0 ∧
      ((field (statusWord s) 0 0 = 1 ∧ t = readStatus (turnUsed s)) ∨
        (field (statusWord s) 0 0 ≠ 1 ∧ t = readStatus s0))) ∨
    (∃ s0, HostPerforms s .check s0 ∧
      ((field (statusWord s) 7 4 ≠ 0 ∧ t = gotoError (readStatus (turnUsed s))) ∨
        (field (statusWord s) 7 4 = 0 ∧ t = readStatus s0))) := by
  cases ht : (nextTurn s).1 with
  | engine => rw [step_engine ht] at e; cases e; exact .inl ⟨rfl, rfl⟩
  | reset => rw [step_reset ht] at e; cases e; exact .inr (.inl ⟨rfl, rfl⟩)
  | host =>
    refine .inr (.inr ?_)
    cases hp : s.program with
    | nil =>
      rw [step_host ht, hostTurn, show (turnUsed s).program = _ from hp] at e
      cases e; exact .inl ⟨rfl, rfl, rfl⟩
    | cons st rest =>
      have h : HostPerforms s st { turnUsed s with program := rest } := ⟨ht, rest, hp, rfl⟩
      refine .inr ?_
      cases st with
      | wr width off v =>
        have hs := step_wr h
        rw [hs] at e
        cases ha : accessReg width off with
        | none => rw [ha] at e; cases e
        | some r =>
          rw [ha] at e
          obtain rfl : width = 8 := by
            by_contra hw; simp [accessReg, hw] at ha
          exact .inl ⟨off, r, v, _, h, ha, e⟩
      | rd var width off =>
        have hs := step_rd h
        rw [hs] at e
        cases ha : accessReg width off with
        | none => rw [ha] at e; cases e
        | some r =>
          rw [ha] at e
          obtain rfl : width = 8 := by
            by_contra hw; simp [accessReg, hw] at ha
          cases e
          exact .inr (.inl ⟨off, r, var, _, h, ha, rfl⟩)
      | wait =>
        rw [step_wait h] at e
        refine .inr (.inr (.inl ⟨_, h, ?_⟩))
        split at e
        · cases e; exact .inl ⟨‹_›, rfl⟩
        · cases e; exact .inr ⟨‹_›, rfl⟩
      | check =>
        rw [step_check h] at e
        refine .inr (.inr (.inr ⟨_, h, ?_⟩))
        split at e
        · cases e; exact .inl ⟨‹_›, rfl⟩
        · cases e; exact .inr ⟨not_not.1 ‹_›, rfl⟩

theorem RunsTo.refl (s : State) : RunsTo 0 s s := rfl

theorem RunsTo.head {s t u : State} {n : Nat} (h : step s = .next t) (r : RunsTo n t u) :
    RunsTo (n + 1) s u := by
  simpa only [RunsTo, Host.Core.run, core, h] using r

theorem RunsTo.single {s t : State} (h : step s = .next t) : RunsTo 1 s t := .head h (.refl t)

theorem run_add (m n : Nat) (s t : State) (h : RunsTo m s t) :
    Host.Core.run core (m + n) s = Host.Core.run core n t := by
  induction m generalizing s with
  | zero => cases h; simp
  | succ m ih =>
    rw [Nat.succ_add]
    simp only [RunsTo, Host.Core.run] at h ⊢
    cases e : core.step s with
    | next u => rw [e] at h; exact ih u h
    | fault r => rw [e] at h; cases h
    | refused r => rw [e] at h; cases h

theorem RunsTo.trans {s t u : State} {m n : Nat} (h : RunsTo m s t) (r : RunsTo n t u) :
    RunsTo (m + n) s u := (run_add m n s t h).trans r

end Sys2Proof
end

