-- ==== Sys2Proof/Machine/Assembler.lean ====
section
/-!
DEFINITION. The host assembler syntax (30_encoding.md R80, R81 and the operand-free pseudo-instructions
of R82): one statement a line, read from its characters.
-/

namespace Sys2Proof.Machine

/-- The words of a line; spaces and commas separate them (the model's choice, assumption log 15). -/
def wordsOf (line : String) : List (List Char) :=
  (line.toList.splitOnP (" ,".toList.contains ·)).filter (· ≠ [])

/-- The numeral that digits spell in a base of at most 16, most significant digit first; nothing for no
digit at all or for a character that is no digit of the base. A digit's value is its place among the
sixteen; hex digits of either case and leading zeros are the model's choice (assumption log 15). -/
def numeral (base : Nat) (ds : List Char) : Option Nat :=
  let values := ds.map fun d => "0123456789abcdef".toList.idxOf d.toLower
  if ds ≠ [] ∧ values.all (· < base) then some (values.foldl (base * · + ·) 0) else none

/-- An operand, "decimal or `0x` hex" (R80). -/
def parseNumber : List Char → Option Nat
  | '0' :: 'x' :: ds => numeral 16 ds
  | ds => numeral 10 ds

/-- The index that ends a register's or a read value's name: decimal, as R81 writes `LANE0` .. `LANE24`.
R81 is silent on leading zeros; that an index has none, so that each register and each `d<i>` has one
spelling and `LANE07` names no register, is the model's choice (assumption log 15). -/
def parseIndex : List Char → Option Nat
  | '0' :: _ :: _ => none
  | ds => numeral 10 ds

/-- A command mnemonic with its operand; the operand must fit its field (R80, R72). -/
def parseCommand (tokens : List (List Char)) : Option Instr :=
  let i? : Option Instr :=
    match tokens with
    | [m] =>
      if m = "NOP".toList then some .nop
      else if m = "ABSORB".toList then some .absorb
      else if m = "PERMUTE".toList then some .permute
      else none
    | [m, operand] =>
      if m = "INIT".toList then (parseNumber operand).map .init
      else if m = "FINAL".toList then (parseNumber operand).map .final
      else if m = "ROUND".toList then (parseNumber operand).map .round
      else none
    | _ => none
  i?.filter Instr.wf

/-- A register name: `LANE<i>`, `A_x_y`, `BLK<j>`, `CMD`, `STATUS` or `CONFIG` (R81); an index has no
leading zero (assumption log 15). -/
def parseReg (t : List Char) : Option Reg :=
  if t = "CMD".toList then some .cmd
  else if t = "STATUS".toList then some .status
  else if t = "CONFIG".toList then some .config
  else
    match t with
    | 'L' :: 'A' :: 'N' :: 'E' :: ds => do
      let i ← parseIndex ds
      if h : i < 25 then some (.lane ⟨i, h⟩) else none
    | 'B' :: 'L' :: 'K' :: ds => do
      let j ← parseIndex ds
      if h : j < 17 then some (.blk ⟨j, h⟩) else none
    | ['A', '_', cx, '_', cy] => do
      let x ← parseIndex [cx]
      let y ← parseIndex [cy]
      if h : x < 5 ∧ y < 5 then some (.lane (laneIndex ⟨x, h.1⟩ ⟨y, h.2⟩)) else none
    | _ => none

/-- The name given to a read value (R81). The names of R82's expansions are the host variables `s` and
`d<i>`; every other word, `d07` among them, is a name of the program's own (assumption log 15). -/
def parseVar (t : List Char) : HostVar :=
  match t with
  | ['s'] => .s
  | 'd' :: ds => match parseIndex ds with
    | some i => .d i
    | none => .named (String.ofList t)
  | _ => .named (String.ofList t)

/-- One line of the host syntax; `none` where the line is no statement of R80 to R82. `CMD <word>` is
the raw form that 95_test_vectors.md P5 uses for a word no mnemonic has. -/
def parseStmt (line : String) : Option HostStmt :=
  let tokens := wordsOf line
  match parseCommand tokens with
  | some i => some (cmdStmt i)
  | none =>
    match tokens with
    | [k] =>
      if k = "WAIT".toList then some .wait
      else if k = "CHECK".toList then some .check
      else none
    | [k, w] =>
      if k = "CMD".toList then
        match parseCommand [w], parseNumber w with
        | some i, _ => some (cmdStmt i)
        | none, some n => if n < 2 ^ 64 then some (wrStmt .cmd (BitVec.ofNat 64 n)) else none
        | none, none => none
      else none
    | [k, a, b] =>
      if k = "WR".toList then
        match parseReg a, parseNumber b with
        | some r, some n => if n < 2 ^ 64 then some (wrStmt r (BitVec.ofNat 64 n)) else none
        | _, _ => none
      else if k = "CMD".toList then (parseCommand [a, b]).map cmdStmt
      else none
    | [k, a, arrow, var] =>
      if k = "RD".toList ∧ arrow = "->".toList then (parseReg a).map fun r => rdStmt r (parseVar var)
      else none
    | _ => none

end Sys2Proof.Machine
end

