-- ==== Sys2Proof/Tests/Slice0.lean ====
section
/-!
SUPPORT. Tests: expected results come from the spec's worked encodings (30_encoding.md R75), its rules'
examples and its vectors (95_test_vectors.md); and for each statement with hypotheses a witness that
meets them.
-/

open Sys2Proof Sys2Proof.Machine

namespace Sys2Proof.Tests

/-- What a field of the next state holds; nothing where there is no next state. -/
def fieldOf {α : Type} (r : Result) (f : State → α) : Option α :=
  match r with
  | .next s => some (f s)
  | .fault _ => none
  | .refused _ => none

/-- From reset, the host's next turn performs `st`. -/
def hostDoes (st : HostStmt) : State := { State.reset with program := [st], turns := [.host] }

/-- A PERMUTE in progress, at round 0. -/
def permuting : State := { State.reset with busy := true, pend := .permute, rend := 23 }

/-- The same with the host's next turn performing `st`. -/
def hostDoesBusy (st : HostStmt) : State := { permuting with program := [st], turns := [.host] }

/-- After INIT `bits`. -/
def afterInit (bits : Nat) : State := configure bits State.reset

/-- A lane file of equal lanes. -/
def allLanes (v : Word) : Lanes := Vector.replicate 25 v

theorem host_performs (st : HostStmt) : HostPerforms (hostDoes st) st State.reset :=
  ⟨rfl, _, rfl, rfl⟩

theorem host_performs_busy (st : HostStmt) : HostPerforms (hostDoesBusy st) st permuting :=
  ⟨rfl, _, rfl, rfl⟩

/-! ### Well-formedness: each check refuses an ill-formed term (R71) -/

theorem test_wf_refuses_outBits : (Instr.init 65536).wf = false := by decide
theorem test_wf_refuses_len : (Instr.final 256).wf = false := by decide
theorem test_wf_refuses_ridx : (Instr.round 256).wf = false := by decide
theorem test_wf_accepts :
    [Instr.nop, .init 65535, .init 257, .absorb, .final 255, .permute, .round 24].all Instr.wf = true := by
  decide

/-! ### Decoding (R75; vectors E-1 to E-9) -/

theorem test_decode_nop : decode 0x0000000000000000#64 = .ok .nop := by decide
theorem test_decode_init : decode 0x0000000001800001#64 = .ok (.init 384) := by decide
theorem test_decode_absorb : decode 0x0000000000000002#64 = .ok .absorb := by decide
theorem test_decode_final : decode 0x0000000000000303#64 = .ok (.final 3) := by decide
theorem test_decode_permute : decode 0x0000000000000004#64 = .ok .permute := by decide
theorem test_decode_round : decode 0x0000000000000105#64 = .ok (.round 1) := by decide
theorem test_decode_operand_bits :
    decode 0x00000000FFFF0001#64 = .ok (.init 65535) ∧ decode 0x0000000000008803#64 = .ok (.final 136) ∧
    decode 0x000000000000FF05#64 = .ok (.round 255) := by decide
theorem test_decode_reserved_opcodes :
    (List.range 10).all (fun k => decode (BitVec.ofNat 64 (6 + k)) == .error (.reservedOpcode (6 + k))) =
      true := by decide
/-- E-2, E-4 to E-7. -/
theorem test_decode_reserved_bits :
    [0x0000000000000010#64, 0x0000000000000102#64, 0x0000000100000004#64, 0x0000000001000101#64,
      0x0000000001000003#64, 0x8000000000000001#64, 0x0000000000010005#64].all
      (fun w => decode w == .error .reservedBits) = true := by decide
theorem test_encode :
    encode (.init 512) = 0x0000000002000001#64 ∧ encode (.final 135) = 0x0000000000008703#64 ∧
    encode (.round 23) = 0x0000000000001705#64 := by decide
theorem test_decodeTableWord :
    decodeTableWord 64 0x1705 = some (.round 23) ∧ decodeTableWord 64 0x1706 = none := by decide

/-! ### Commands, one step each -/

/-- R161: after a rejected INIT, NOP gives ERR = 0. -/
theorem test_nop_clears_err :
    fieldOf (step ({ State.reset with err := .invalidParameter }.withFetchWord 64 0)) State.err =
      some .ok := by decide

/-- R162, SP-10: INIT 384 from reset. -/
theorem test_init_384 :
    fieldOf (step (State.reset.withFetchWord 64 0x0000000001800001)) (fun s => (configWord s, statusWord s)) =
      some (0x0000000000680180#64, 0x0000000000000002#64) := by decide

/-- SP-3: INIT 257 from reset. -/
theorem test_init_257 :
    fieldOf (step (State.reset.withFetchWord 64 0x0000000001010001)) (fun s => (configWord s, statusWord s)) =
      some (0x0000000000000000#64, 0x0000000000000010#64) := by decide

/-- SP-6: ABSORB from reset. -/
theorem test_absorb_badSequence :
    fieldOf (step (State.reset.withFetchWord 64 2)) statusWord = some 0x0000000000000020#64 := by decide

/-- R163: at rate 72 BLK[8] reaches lane 8 and BLK[9] is not read. -/
theorem test_absorb_rate_edge :
    fieldOf
      (exec .absorb
        { afterInit 512 with blk := (Vector.replicate 17 0#64).set 8 5#64 |>.set 9 7#64 })
      (fun s => (s.lanes[8], s.lanes[9], s.busy, s.rend)) = some (5#64, 0#64, true, 23) := by
  decide +kernel

/-- SP-9: FINAL 200 with no INIT. -/
theorem test_final_badSequence :
    fieldOf (step (State.reset.withFetchWord 64 0xC803)) statusWord = some 0x0000000000000020#64 := by
  decide

/-- SP-12: INIT 512, FINAL 71 with BLK zero: lane 8 takes 0x81 in its top byte. -/
theorem test_final_combined_byte :
    fieldOf (exec (.final 71) (afterInit 512)) (fun s => (s.lanes[8], s.lanes[9])) =
      some (0x8100000000000000#64, 0#64) := by decide +kernel

/-- R120: PERMUTE from reset sets BUSY and RCNT = 0. -/
theorem test_permute_starts :
    fieldOf (step (State.reset.withFetchWord 64 4)) statusWord = some 0x0000000000000001#64 := by decide

/-- PF-8: the state after the engine step with RCNT = 1 of PERMUTE on the zero state. -/
theorem test_permute_second_round :
    fieldOf (step { permuting with lanes := (allLanes 0#64).set 0 1#64, rcnt := 1 })
      (fun s => (s.lanes[0], s.lanes[3], s.lanes[18], s.lanes[22], s.lanes[24], s.rcnt)) =
      some (0x0000000000008083#64, 0x0000000000000001#64, 0x0000000010000000#64,
        0x0000010000000004#64, 0x0000000000000004#64, 2) := by decide +kernel

/-- PF-14: ROUND 24. -/
theorem test_round_24 :
    fieldOf (step (State.reset.withFetchWord 64 0x1805)) statusWord = some 0x0000000000000040#64 := by
  decide

/-- PF-9: ROUND 1 on 25 lanes equal to 4. -/
theorem test_round_1_all_4 :
    fieldOf (step { State.reset with lanes := allLanes 4#64, busy := true, pend := .round, rcnt := 1, rend := 1 })
      (fun s => (s.lanes[0], s.lanes[1], s.lanes[15], s.lanes[19], s.lanes[24], statusWord s)) =
      some (0x000040000000808A#64, 0x0000800001000000#64, 0x0000000040002000#64,
        0x0800008000000000#64, 0x0400000000000020#64, 0x0000000000000100#64) := by decide +kernel

/-- E-9: a word written while BUSY = 1. -/
theorem test_busy_before_decode :
    fieldOf (writeReg .cmd 0x0000000000000106#64 permuting) State.err = some .busy ∧
    fieldOf (writeReg .cmd 0x0000000000000106#64 State.reset) State.err = some .illegalCommand := by
  decide

/-! ### Step mappings, tables, padding, hash -/

/-- PF-2. -/
theorem test_theta_all_4 : (theta (allLanes 4#64)).toList.all (· == 8#64) = true := by decide +kernel

/-- PF-4: lanes 1, 9, 19 and 23 of rho and pi on A[i] = i. -/
theorem test_rhoPi_index_lanes :
    let B := rhoPi (Vector.ofFn fun i => BitVec.ofNat 64 i.val)
    (B[1], B[9], B[19], B[23]) =
      (0x0000600000000000#64, 0xC000000000000002#64, 0x1700000000000000#64, 0x00001E0000000000#64) := by
  decide +kernel

/-- PF-5. -/
theorem test_chi_row :
    (chi ((allLanes 0#64).set 1 0xFFFFFFFFFFFFFFFF#64 |>.set 2 0xF0F0F0F0F0F0F0F0#64)).toList.take 6 =
      [0, 0xFFFFFFFFFFFFFFFF#64, 0xF0F0F0F0F0F0F0F0#64, 0, 0xFFFFFFFFFFFFFFFF#64, 0] := by
  decide +kernel

/-- R102 (a), PF-0: the LFSR gives the round constants. -/
theorem test_round_constants : ∀ r : Fin 24, roundConstantByLfsr r.val = roundConstants[r] := by
  decide +kernel

/-- R102 (b), PF-0: the walk gives the rotation offsets, and meets every lane but lane 0. -/
theorem test_rotation_offsets :
    (∀ t : Fin 24, rotationAt (rotationWalk t.val).1 (rotationWalk t.val).2 = rotationByWalk t.val) ∧
    rotationOffsets[0] = 0 ∧
    ((List.range 24).map fun t => laneIndex (rotationWalk t).1 (rotationWalk t).2).Nodup := by
  decide +kernel

/-- R160. -/
theorem test_rates :
    [256, 384, 512].map (fun b => (rateOf b, capacityOf b, outBytesOf b)) =
      [(136, 512, 32), (104, 768, 48), (72, 1024, 64)] := by decide

/-- PAD-4, PAD-6, PAD-7. -/
theorem test_pad :
    (pad (List.replicate 136 7#8) 136).drop 136 = 0x01#8 :: List.replicate 134 0#8 ++ [0x80#8] ∧
    pad [] 1 = [0x81#8] ∧ pad (List.replicate 5 7#8) 1 = List.replicate 5 7#8 ++ [0x81#8] := by
  decide +kernel

/-- PB-4: stale bytes past LEN are ignored. -/
theorem test_padBlock_stale :
    padBlock ((Vector.replicate 17 0xFFFFFFFFFFFFFFFF#64).set 0 0xFFFFFFFFFF636261#64) 3 136 =
      0x0000000001636261#64 :: List.replicate 15 0#64 ++ [0x8000000000000000#64] := by decide +kernel

/-- M-10: the first 8 bytes of the state view. -/
theorem test_state_bytes :
    (stateBytes ((allLanes 0#64).set 0 0x3C23F7860146D2C5#64)).take 8 =
      [0xc5#8, 0xd2#8, 0x46#8, 0x01#8, 0x86#8, 0xf7#8, 0x23#8, 0x3c#8] := by decide +kernel

/-- H-2: Keccak-256 of "abc"; the source gives its first 63 hex digits. -/
theorem test_hash_abc :
    (keccakHash 256 [0x61#8, 0x62#8, 0x63#8]).toOption = some
      [0x4e#8, 0x03#8, 0x65#8, 0x7a#8, 0xea#8, 0x45#8, 0xa9#8, 0x4f#8, 0xc7#8, 0xd4#8, 0x7b#8,
       0xa8#8, 0x26#8, 0xc8#8, 0xd6#8, 0x67#8, 0xc0#8, 0xd1#8, 0xe6#8, 0xe3#8, 0x3a#8, 0x64#8,
       0xa0#8, 0x36#8, 0xec#8, 0x44#8, 0xf5#8, 0x8f#8, 0xa1#8, 0x2d#8, 0x6c#8, 0x45#8] := by
  decide +kernel

/-! ### Host accesses (M-2 to M-7) -/

theorem test_bus_errors :
    step (hostDoes (.rd .s 8 0x0C8)) = .fault (.busError 0x0C8) ∧
    step (hostDoes (.rd .s 4 0x000)) = .fault (.busError 0x000) ∧
    step (hostDoes (.wr 8 0x004 0)) = .fault (.busError 0x004) := ⟨rfl, rfl, rfl⟩
theorem test_cmd_reads_zero :
    fieldOf (step (hostDoes (.rd .s 8 0x200))) State.observed = some [(.s, 0#64)] := by decide
theorem test_status_write_ignored :
    step (hostDoes (.wr 8 0x208 0xFFFF#64)) = .next State.reset := rfl
theorem test_lane7_write :
    fieldOf (step (hostDoes (.wr 8 0x038 4#64))) (fun s => laneAt s.lanes 2 1) = some 4#64 := by decide

/-! ### The host syntax (R80, R81; program P5) -/

theorem test_parse_commands :
    parseStmt "INIT 256" = some (.wr 8 0x200 0x0000000001000001#64) ∧
    parseStmt "CMD FINAL 0x88" = some (.wr 8 0x200 0x0000000000008803#64) ∧
    parseStmt "CMD 0x6" = some (.wr 8 0x200 0x0000000000000006#64) ∧
    parseStmt "ROUND 256" = none ∧ parseStmt "ABSORB 1" = none := by decide +kernel
theorem test_parse_accesses :
    parseStmt "WR BLK0, 0x0000000000636261" = some (.wr 8 0x100 0x0000000000636261#64) ∧
    parseStmt "RD A_2_1 -> d7" = some (.rd (.d 7) 8 0x038) ∧ parseStmt "WAIT" = some .wait ∧
    parseStmt "WR LANE25, 0" = none := by decide +kernel
/-- The model's choice of log entry 15: an index has no leading zero, a number may. -/
theorem test_parse_leading_zeros :
    parseStmt "WR LANE07, 0" = none ∧ parseStmt "RD LANE0 -> d07" = some (.rd (.named "d07") 8 0) ∧
    parseStmt "FINAL 007" = parseStmt "FINAL 0x7" ∧ parseStmt "WR BLK1, 0xfF" = some (.wr 8 0x108 255) := by
  decide +kernel

/-! ### Several instances, several hosts (R211) -/

/-- Two instances in equal states read LANE[0] while busy: each value is of the instance's own stream. -/
theorem test_instances_draw_apart :
    let p : Platform 2 := Vector.replicate 2 (hostDoesBusy (.rd .s 8 0))
    (stepInstance 0 p)[0].observed = [(.s, Config.freeLaneRead 0 0)] ∧
    (stepInstance 1 p)[1].observed = [(.s, Config.freeLaneRead 1 0)] := ⟨rfl, rfl⟩

/-- One instance, ERR = 6, and two hosts: the first is at CHECK, the second about to read STATUS. -/
def twoHosts : SharedEngine 2 where
  engine := { State.reset with err := .busy }
  hosts := #v[⟨[.check, .wait], [], false⟩, ⟨[.rd .s 8 0x208], [], false⟩]

/-- `goto error` of one host empties its own program and leaves the other's statements. -/
theorem test_goto_error_is_one_hosts :
    stepShared (.host 0) twoHosts =
      .next { twoHosts with hosts := #v[⟨[], [(.s, 0x60#64)], true⟩, twoHosts.hosts[1]] } := rfl

/-! ### Witnesses: for each statement, states and operands that meet all its hypotheses together -/

theorem witness_DecodeOfEncode :
    (Instr.init 65535).wf = true ∧ (Instr.final 255).wf = true ∧ (Instr.round 255).wf = true := by
  decide
theorem witness_EncodeOfDecode : decode 0x000000000000FF03#64 = .ok (.final 255) := by decide
theorem witness_DecodeFollowsOpcodeTable :
    decode 0x00000000FFFF0001#64 = .ok (.init 65535) ∧
    ∃ row ∈ opcodeTable, row.selects 0x00000000FFFF0001#64 = true := by decide
theorem witness_IllegalWordRejected :
    HostPerforms (hostDoes (.wr 8 0x200 0x6#64)) (.wr 8 0x200 0x6#64) State.reset ∧
    (hostDoes (.wr 8 0x200 0x6#64)).busy = false ∧
    (∀ row ∈ opcodeTable, row.selects 0x6#64 = false) ∧
    HostPerforms (hostDoesBusy (.wr 8 0x200 0#64)) (.wr 8 0x200 0#64) permuting ∧
    (hostDoesBusy (.wr 8 0x200 0#64)).busy = true :=
  ⟨host_performs _, rfl, by decide, host_performs_busy _, rfl⟩
theorem witness_IllegalWordRejected_fields :
    6 ≤ field 0x6#64 3 0 ∧ 6 ≤ field 0xF#64 3 0 ∧ field 0x11#64 7 4 ≠ 0 ∧
    field 0x8000000000000000#64 63 32 ≠ 0 ∧ field 0x102#64 15 8 ≠ 0 ∧ field 0x102#64 3 0 = 2 ∧
    field 0x80000003#64 31 16 ≠ 0 ∧ field 0x80000003#64 3 0 = 3 := by decide
theorem witness_StepRunsDecodedCommand :
    HostPerforms (hostDoes (.wr 8 0x200 0x4#64)) (.wr 8 0x200 0x4#64) State.reset ∧
    decode 0x4#64 = .ok .permute ∧ decodeTableWord 64 4 = some .permute :=
  ⟨host_performs _, by decide, by decide⟩
theorem witness_StepFaultsOnlyByBusError :
    step (hostDoes (.wr 1 0 0)) = .fault (.busError 0) ∧ accessReg 1 0 = none ∧
    HostPerforms (hostDoes (.wr 1 0 0)) (.wr 1 0 0) State.reset :=
  ⟨rfl, by decide, host_performs _⟩
theorem witness_NopCommand :
    State.reset.busy = false ∧ permuting.busy = true ∧ field 0x10#64 3 0 = 0 ∧ 0x10#64 ≠ 0x0#64 := by
  decide
theorem witness_InitCommand :
    decode 0x0000000001800001#64 = .ok (.init 384) ∧ State.reset.busy = false ∧
    permuting.busy = true ∧ 257 ∉ [256, 384, 512] ∧ 512 ∈ [256, 384, 512] ∧
    field 0x101#64 3 0 = 1 ∧ 0x101#64 &&& 0xFFFFFFFF0000FFFF#64 ≠ 0x1#64 := by decide
theorem witness_AbsorbCommand :
    (afterInit 256).busy = false ∧ (afterInit 256).sph = .absorbing ∧ permuting.busy = true ∧
    State.reset.busy = false ∧ State.reset.sph ≠ .absorbing ∧ field 0x102#64 3 0 = 2 ∧
    0x102#64 ≠ 0x2#64 := by decide
theorem witness_FinalCommand :
    (afterInit 256).busy = false ∧ (afterInit 256).sph = .absorbing ∧
    135 < (afterInit 256).rate.toNat ∧ (afterInit 256).rate.toNat ≤ 136 ∧ permuting.busy = true ∧
    State.reset.busy = false ∧ State.reset.sph ≠ .absorbing ∧ field 0x13#64 3 0 = 3 ∧
    0x13#64 &&& 0xFFFFFFFFFFFF00FF#64 ≠ 0x3#64 := by decide
theorem witness_PermuteCommand :
    State.reset.busy = false ∧ permuting.busy = true ∧ field 0x100000004#64 3 0 = 4 ∧
    0x100000004#64 ≠ 0x4#64 := by decide
theorem witness_RoundCommand :
    State.reset.busy = false ∧ permuting.busy = true ∧ 23 < 24 ∧ field 0x15#64 3 0 = 5 ∧
    0x15#64 &&& 0xFFFFFFFFFFFF00FF#64 ≠ 0x5#64 := by decide
theorem witness_CommandFrames :
    exec .permute State.reset = .next permuting ∧
    fieldOf (exec (.init 256) State.reset) State.err = some .ok ∧
    fieldOf (exec .absorb (afterInit 512)) State.err = some .ok ∧
    fieldOf (exec (.final 71) (afterInit 512)) State.err = some .ok ∧
    (afterInit 512).rate.toNat / 8 = 9 := ⟨rfl, by decide, by decide, by decide, by decide⟩
theorem witness_CommandOutcomeIndependentOfData : exec .permute State.reset = .next permuting := rfl
theorem witness_StaleBlockBytesIgnored :
    (∀ j : Fin 17, j.val < (afterInit 512).rate.toNat / 8 →
      ((afterInit 512).blk.set 9 1#64)[j] = (afterInit 512).blk[j]) ∧
    (∀ k, k < 0 → blkByte ((afterInit 512).blk.set 0 1#64) k = blkByte (afterInit 512).blk k) ∧
    fieldOf (exec .absorb (afterInit 512)) State.err = some .ok ∧
    fieldOf (exec (.final 0) (afterInit 512)) State.err = some .ok :=
  ⟨by decide, fun _ h => absurd h (Nat.not_lt_zero _), by decide, by decide⟩
theorem witness_RejectionIsPrecise :
    writeReg .cmd 0x2#64 State.reset = .next { State.reset with err := .badSequence } ∧
    ErrCode.badSequence ≠ .ok := ⟨rfl, by decide⟩
theorem witness_ErrorPriority :
    permuting.busy = true ∧ decode 0x106#64 = .error (.reservedOpcode 6) ∧ State.reset.busy = false ∧
    State.reset.sph ≠ .absorbing ∧ (afterInit 256).sph = .absorbing ∧
    (afterInit 256).rate.toNat ≤ 136 ∧ accessReg 4 0x200 = none ∧
    HostPerforms (hostDoes (.wr 4 0x200 0)) (.wr 4 0x200 0) State.reset :=
  ⟨rfl, by decide, rfl, by decide, by decide, by decide, by decide, host_performs _⟩
theorem witness_ErrWriters :
    step (hostDoes (.wr 8 0x200 0x2#64)) = .next { State.reset with err := .badSequence } ∧
    step (hostDoesBusy (.wr 8 0xC0 0)) = .next { permuting with err := .busy } ∧
    step (hostDoesBusy (.wr 8 0x180 0)) = .next { permuting with err := .busy } ∧
    step { State.reset with err := .badRound, turns := [.reset] } = .next State.reset :=
  ⟨rfl, rfl, rfl, rfl⟩
theorem witness_WindowMap :
    accessReg 8 0x0C0 = some (.lane 24) ∧ accessReg 8 0x180 = some (.blk 16) ∧
    accessReg 8 0x0C8 = none ∧ accessReg 8 0x188 = none ∧ accessReg 8 0x0F8 = none ∧
    accessReg 8 0x1F8 = none ∧ accessReg 8 0x218 = none ∧ accessReg 8 0x3F8 = none := by decide
theorem witness_IllegalAccessIsBusError :
    HostPerforms (hostDoes (.wr 8 0x188 0)) (.wr 8 0x188 0) State.reset ∧ ReservedOffset 0x188 ∧
    HostPerforms (hostDoes (.rd .s 8 0x0C0)) (.rd .s 8 0x0C0) State.reset ∧ ¬ ReservedOffset 0x0C0 :=
  ⟨host_performs _, by unfold ReservedOffset; decide, host_performs _, by unfold ReservedOffset; decide⟩
theorem witness_LaneRead :
    HostPerforms (hostDoes (.rd .s 8 (8 * (24 : Fin 25).val))) (.rd .s 8 (8 * (24 : Fin 25).val))
      State.reset ∧ State.reset.busy = false ∧
    HostPerforms (hostDoesBusy (.rd .s 8 (8 * (24 : Fin 25).val))) (.rd .s 8 (8 * (24 : Fin 25).val))
      permuting ∧ permuting.busy = true := ⟨host_performs _, rfl, host_performs_busy _, rfl⟩
theorem witness_LaneWrite :
    HostPerforms (hostDoes (.wr 8 (8 * (24 : Fin 25).val) 1)) (.wr 8 (8 * (24 : Fin 25).val) 1)
      State.reset ∧ State.reset.busy = false ∧
    HostPerforms (hostDoesBusy (.wr 8 (8 * (24 : Fin 25).val) 1)) (.wr 8 (8 * (24 : Fin 25).val) 1)
      permuting ∧ permuting.busy = true := ⟨host_performs _, rfl, host_performs_busy _, rfl⟩
theorem witness_BlkAccess :
    HostPerforms (hostDoes (.wr 8 (0x100 + 8 * (16 : Fin 17).val) 1))
      (.wr 8 (0x100 + 8 * (16 : Fin 17).val) 1) State.reset ∧
    HostPerforms (hostDoesBusy (.wr 8 (0x100 + 8 * (16 : Fin 17).val) 1))
      (.wr 8 (0x100 + 8 * (16 : Fin 17).val) 1) permuting ∧
    HostPerforms (hostDoesBusy (.rd .s 8 (0x100 + 8 * (16 : Fin 17).val)))
      (.rd .s 8 (0x100 + 8 * (16 : Fin 17).val)) permuting :=
  ⟨host_performs _, host_performs_busy _, host_performs_busy _⟩
theorem witness_ControlRegisterAccess :
    HostPerforms (hostDoesBusy (.rd .s 8 0x200)) (.rd .s 8 0x200) permuting ∧
    HostPerforms (hostDoesBusy (.rd .s 8 0x208)) (.rd .s 8 0x208) permuting ∧
    HostPerforms (hostDoesBusy (.rd .s 8 0x210)) (.rd .s 8 0x210) permuting ∧
    HostPerforms (hostDoes (.wr 8 0x208 1)) (.wr 8 0x208 1) State.reset ∧
    HostPerforms (hostDoes (.wr 8 0x210 1)) (.wr 8 0x210 1) State.reset :=
  ⟨host_performs_busy _, host_performs_busy _, host_performs_busy _, host_performs _, host_performs _⟩
theorem witness_ReadAfterWrite :
    State.reset.busy = false ∧
    writeReg (.lane 24) 1 State.reset = .next { State.reset with lanes := State.reset.lanes.set 24 1 } ∧
    writeReg (.blk 16) 1 State.reset = .next { State.reset with blk := State.reset.blk.set 16 1 } :=
  ⟨rfl, rfl, rfl⟩
theorem witness_ReadsHaveNoSideEffect :
    HostPerforms (hostDoesBusy (.rd .s 8 0)) (.rd .s 8 0) permuting ∧
    fieldOf (step (hostDoesBusy (.rd .s 8 0))) State.busy = some true :=
  ⟨host_performs_busy _, by decide⟩
theorem witness_ThetaLanes :
    ∃ C D : Fin 5 → Word,
      (∀ x, C x = laneAt zeroLanes x 0 ^^^ laneAt zeroLanes x 1 ^^^ laneAt zeroLanes x 2 ^^^
        laneAt zeroLanes x 3 ^^^ laneAt zeroLanes x 4) ∧
      ∀ x, D x = C (x + 4) ^^^ rotl64 (C (x + 1)) 1 :=
  ⟨_, _, fun _ => rfl, fun _ => rfl⟩
theorem witness_EngineStepRule :
    TakesTurn { State.reset with turns := [.engine] } .engine State.reset ∧
    TakesTurn permuting .engine permuting ∧ permuting.busy = true ∧ permuting.rcnt ≠ permuting.rend ∧
    permuting.rcnt.val + 1 < 24 ∧
    TakesTurn { permuting with rcnt := 23 } .engine { permuting with rcnt := 23 } :=
  ⟨⟨rfl, rfl⟩, ⟨rfl, rfl⟩, rfl, by decide, by decide, ⟨rfl, rfl⟩⟩
theorem witness_CommandTakesExactSteps :
    State.reset.busy = false ∧ State.reset.turns = [] ∧ exec .permute State.reset = .next permuting ∧
    permuting.err = .ok ∧
    exec .absorb State.reset = .next { State.reset with err := .badSequence } :=
  ⟨rfl, rfl, rfl, rfl, rfl⟩

theorem inv_permuting : Inv permuting where
  configPair := by decide
  phaseConfig := by decide
  pendBusy := by decide
  roundOrder := by decide
  idleRound := by decide
  oneRound := by decide
  fullRounds := by decide
  spongeRounds := by decide

theorem witness_EngineComesToIdle : Inv { permuting with turns := [.engine, .reset] } :=
  { inv_permuting with }
theorem witness_RoundsComposeToKeccakF :
    let s : State :=
      { State.reset with
        program := (List.finRange 24).flatMap (fun r => [cmdStmt (.round r.val), .wait]) }
    s.busy = false ∧ NoReset s ∧ s.program.length = 48 := ⟨rfl, List.not_mem_nil, rfl⟩
theorem witness_CommandThenWaitIsAtomic :
    let s : State :=
      { State.reset with program := [cmdStmt .permute, .wait], turns := [.engine, .host, .host] }
    Instr.permute.wf = true ∧ s.busy = false ∧ NoReset s ∧
      s.program = cmdStmt .permute :: .wait :: [] ∧ fieldOf (exec .permute s) State.err = some .ok :=
  ⟨rfl, rfl, by unfold NoReset; decide, rfl, by decide⟩
theorem witness_PhaseTransitions :
    fieldOf (step (State.reset.withFetchWord 64 0x01000001)) State.sph = some .absorbing ∧
    fieldOf (step { afterInit 256 with busy := true, pend := .final, rcnt := 23, rend := 23 }) State.sph =
      some .squeezing ∧
    fieldOf (step { afterInit 256 with turns := [.reset] }) State.sph = some .unconfigured := by
  decide
theorem witness_ConfigWriters :
    fieldOf (step (State.reset.withFetchWord 64 0x02000001)) (fun s => (s.outBits, s.rate)) =
      some (512, 72) ∧
    fieldOf (step { afterInit 256 with turns := [.reset] }) (fun s => (s.outBits, s.rate)) =
      some (0, 0) := by decide
theorem witness_DataWriters :
    fieldOf (step (hostDoes (.wr 8 0x180 1))) (fun s => s.blk[16]) = some 1#64 ∧
    fieldOf (step (hostDoes (.wr 8 0x0C0 1))) (fun s => s.lanes[24]) = some 1#64 ∧
    fieldOf (step ({ State.reset with lanes := allLanes 1#64 }.withFetchWord 64 0x01000001))
      (fun s => s.lanes[24]) = some 0#64 ∧
    fieldOf (step permuting) (fun s => s.lanes[0]) = some 1#64 ∧
    fieldOf (step { State.reset with blk := Vector.replicate 17 1#64, turns := [.reset] })
      (fun s => s.blk[16]) = some 0#64 := by decide +kernel
theorem witness_StepKeepsInv :
    Inv permuting ∧ fieldOf (step permuting) State.rcnt = some 1 := ⟨inv_permuting, by decide⟩
theorem witness_RespectfulHostNeverRejected :
    Respectful { State.reset with program := hashStmts 256 [] } ∧
    fieldOf (step { State.reset with program := hashStmts 256 [] }) State.sph = some .absorbing := by
  unfold Respectful; decide
theorem witness_BusyWritesIgnored :
    (hostDoesBusy (.wr 8 0x200 4)).busy = true ∧
    HostPerforms (hostDoesBusy (.wr 8 0x200 4)) (.wr 8 0x200 4) permuting ∧
    step (hostDoesBusy (.wr 8 0x200 4)) = .next { permuting with err := .busy } ∧
    step (hostDoesBusy (.wr 8 (8 * (24 : Fin 25).val) 4)) = .next { permuting with err := .busy } ∧
    step (hostDoesBusy (.wr 8 (0x100 + 8 * (16 : Fin 17).val) 4)) =
      .next { permuting with err := .busy } := ⟨rfl, host_performs_busy _, rfl, rfl, rfl⟩
theorem witness_ResetEvent :
    TakesTurn { permuting with turns := [.reset] } .reset permuting := ⟨rfl, rfl⟩
theorem witness_LanesAndBytesInverse :
    (List.replicate 136 1#8).length % 8 = 0 ∧ 135 < (List.replicate 136 1#8).length := by
  decide +kernel
theorem witness_PadInvariants : 1 ≤ 136 ∧ (List.replicate 136 7#8).length % 136 = 0 := by
  decide +kernel
theorem witness_PadBytesCombine :
    1 ≤ 136 ∧ (List.replicate 135 7#8).length % 136 = 136 - 1 ∧
    (List.replicate 134 7#8).length % 136 ≠ 136 - 1 ∧ 0 < 134 ∧ 134 + 1 < (pad [] 136).length := by
  decide +kernel
theorem witness_PadBlockBytes : 135 < 136 ∧ 136 % 8 = 0 ∧ 0 < 72 ∧ 72 % 8 = 0 := by decide
theorem witness_PadIsBlocksThenFinalBlock :
    let m := [0x61#8, 0x62#8, 0x63#8]
    1 ≤ 136 ∧ ∀ k, k < m.length % 136 →
      blkByte ((Vector.replicate 17 0#64).set 0 0x0000000000636261#64) k =
        m.getD (m.length / 136 * 136 + k) 0 := by decide
theorem witness_HashOutput :
    (keccakHash 256 []).toOption.isSome = true ∧ 0 ∉ [256, 384, 512] ∧ 224 ∉ [256, 384, 512] :=
  ⟨rfl, by decide, by decide⟩
theorem witness_LoadBlkFillsBuffer :
    let s : State := { State.reset with program := loadBlk (List.replicate 136 1#8) ++ [] }
    (List.replicate 136 1#8).length ≤ 136 ∧ s.busy = false ∧ NoReset s ∧
      s.program = loadBlk (List.replicate 136 1#8) ++ [] :=
  ⟨by decide +kernel, rfl, List.not_mem_nil, rfl⟩
theorem witness_LoadBlkFillsBuffer_zeros :
    let n := (List.replicate 129 1#8).length
    n ≤ 136 ∧ n ≤ 135 ∧ 135 < 8 * ((n + 7) / 8) ∧ (n + 7) / 8 ≤ 17 := by decide +kernel
theorem witness_HashProgramComputesHash :
    let s : State := { State.reset with program := hashStmts 512 [], turns := [.engine, .host] }
    512 ∈ [256, 384, 512] ∧ s.busy = false ∧ s.hostError = false ∧ NoReset s ∧
      s.program = hashStmts 512 [] := ⟨by decide, rfl, rfl, by unfold NoReset; decide, rfl⟩
theorem witness_HashProgramRejectsParameter :
    let s : State := { State.reset with program := hashStmts 257 [] }
    257 < 2 ^ 16 ∧ 257 ∉ [256, 384, 512] ∧ s.busy = false ∧ NoReset s ∧
      s.program = hashStmts 257 [] := ⟨by decide, by decide, rfl, List.not_mem_nil, rfl⟩
theorem witness_WaitAndCheck :
    HostPerforms (hostDoesBusy .wait) .wait permuting ∧ (hostDoesBusy .wait).busy = true ∧
    HostPerforms (hostDoes .wait) .wait State.reset ∧ (hostDoes .wait).busy = false ∧
    HostPerforms { hostDoes .check with err := .busy } .check { State.reset with err := .busy } ∧
    HostPerforms (hostDoes .check) .check State.reset ∧ (hostDoes .check).err = .ok :=
  ⟨host_performs_busy _, rfl, host_performs _, rfl, ⟨rfl, _, rfl, rfl⟩, host_performs _, rfl⟩
theorem witness_InstancesDoNotInteract :
    (0 : Fin 2) ≠ 1 ∧
    step { (Vector.replicate 2 permuting : Platform 2)[1] with stream := 1 } =
      .next { engineStep permuting with stream := 1 } := ⟨by decide, rfl⟩
theorem witness_SharedHostsKeepTheirOwn :
    hostTurn (twoHosts.engine.withHost twoHosts.hosts[1]) =
      .next { twoHosts.engine with observed := [(.s, 0x60#64)] } ∧
    (1 : Fin 2) ≠ 0 ∧
    hostTurn (State.reset.withHost ⟨[.wr 4 0 0], [], false⟩) = .fault (.busError 0) ∧
    (∀ width off v rest, twoHosts.hosts[1].program ≠ .wr width off v :: rest) ∧
    fieldOf (hostTurn (twoHosts.engine.withHost twoHosts.hosts[0])) State.hostError = some true :=
  ⟨rfl, by decide, rfl, by simp [twoHosts], by decide⟩

end Sys2Proof.Tests
end

section
/-!
What one step can do to the engine's state, said once for every kind of turn (10_state.md R20 to R28), and
the statements of 10_state.md that follow from it.
-/

namespace Sys2Proof

open Sys2Proof.Machine

/-! ### Two states with the same engine -/

namespace SameEngine

variable {s t u : State}

theorem refl (s : State) : SameEngine s s := by simp [SameEngine]

theorem trans (h : SameEngine s t) (k : SameEngine t u) : SameEngine s u := by
  simp_all [SameEngine]

theorem lanes_eq (h : SameEngine s t) : t.lanes = s.lanes := by
  obtain ⟨e, -⟩ := h; exact e

theorem blk_eq (h : SameEngine s t) : t.blk = s.blk := by
  obtain ⟨-, e, -⟩ := h; exact e

theorem outBits_eq (h : SameEngine s t) : t.outBits = s.outBits := by
  obtain ⟨-, -, e, -⟩ := h; exact e

theorem rate_eq (h : SameEngine s t) : t.rate = s.rate := by
  obtain ⟨-, -, -, e, -⟩ := h; exact e

theorem busy_eq (h : SameEngine s t) : t.busy = s.busy := by
  obtain ⟨-, -, -, -, e, -⟩ := h; exact e

theorem sph_eq (h : SameEngine s t) : t.sph = s.sph := by
  obtain ⟨-, -, -, -, -, e, -⟩ := h; exact e

/-- The invariant speaks of the engine's fields only. -/
theorem inv (h : SameEngine s t) (i : Inv s) : Inv t := by
  obtain ⟨-, -, outBits, rate, busy, sph, -, rcnt, pend, rend⟩ := h
  exact
    { configPair := by rw [outBits, rate]; exact i.configPair
      phaseConfig := by rw [sph, outBits]; exact i.phaseConfig
      pendBusy := by rw [pend, busy]; exact i.pendBusy
      roundOrder := by rw [rcnt, rend]; exact i.roundOrder
      idleRound := by rw [busy, rcnt, rend]; exact i.idleRound
      oneRound := by rw [pend, rcnt, rend]; exact i.oneRound
      fullRounds := by rw [pend, rend]; exact i.fullRounds
      spongeRounds := by rw [pend, sph]; exact i.spongeRounds }

end SameEngine

theorem sameEngine_turnUsed (s : State) : SameEngine s (turnUsed s) := .refl s

theorem HostPerforms.sameEngine {s s0 : State} {st : HostStmt} (h : HostPerforms s st s0) :
    SameEngine s s0 := by
  obtain ⟨rest, -, rfl, -⟩ := h.state
  exact .refl s

/-- A host read changes nothing of the engine (R48). -/
theorem sameEngine_afterRead (r : Reg) (s : State) : SameEngine s (afterRead r s) := by
  cases r with
  | lane i =>
    cases hb : s.busy with
    | true => rw [afterRead, if_pos hb]; exact .refl s
    | false => rw [afterRead, if_neg (by simp [hb])]; exact .refl s
  | blk j => exact .refl s
  | cmd => exact .refl s
  | status => exact .refl s
  | config => exact .refl s

/-! ### What a register write and a step can do -/

/-- What a host write of `v` to the register `r` can do to the state (R44 to R47). -/
inductive WriteEffect : Reg → Word → State → State → Prop where
  | ignored (r : Reg) (v : Word) (s : State) : r = .status ∨ r = .config → WriteEffect r v s s
  | busy (r : Reg) (v : Word) (s : State) : s.busy = true → r ≠ .status → r ≠ .config →
      WriteEffect r v s (cmdRejected .busy s)
  | rejected (w : Word) (s : State) (c : ErrCode) : s.busy = false → c ≠ .ok → c ≠ .busy →
      WriteEffect .cmd w s (cmdRejected c s)
  | lane (i : Fin 25) (v : Word) (s : State) : s.busy = false →
      WriteEffect (.lane i) v s { s with lanes := s.lanes.set i.val v i.isLt }
  | blk (j : Fin 17) (v : Word) (s : State) : s.busy = false →
      WriteEffect (.blk j) v s { s with blk := s.blk.set j.val v j.isLt }
  | command {w : Word} {i : Instr} {s t : State} : s.busy = false → decode w = .ok i →
      Accepted i s t → WriteEffect .cmd w s t

/-- The next state of a register write is one of its effects. -/
theorem writeReg_effect {r : Reg} {v : Word} {s t : State} (e : writeReg r v s = .next t) :
    WriteEffect r v s t := by
  cases r with
  | lane i =>
    obtain rfl : writeLane i v s = t := Host.Outcome.next.inj e
    cases hb : s.busy with
    | true => rw [writeLane_busy hb]; exact .busy _ v s hb nofun nofun
    | false => rw [writeLane_idle hb]; exact .lane i v s hb
  | blk j =>
    obtain rfl : writeBlk j v s = t := Host.Outcome.next.inj e
    cases hb : s.busy with
    | true => rw [writeBlk_busy hb]; exact .busy _ v s hb nofun nofun
    | false => rw [writeBlk_idle hb]; exact .blk j v s hb
  | cmd =>
    cases hd : decode v with
    | error x =>
      rw [writeReg_cmd_of_illegal hd] at e
      obtain rfl := Host.Outcome.next.inj e
      cases hb : s.busy with
      | true => exact .busy _ v s hb nofun nofun
      | false => exact .rejected v s .illegalCommand hb nofun nofun
    | ok i =>
      rw [writeReg_cmd_of_decode hd] at e
      obtain ⟨hb, rfl⟩ | ⟨hb, c, hok, hbusy, rfl⟩ | ⟨hb, ha⟩ := exec_cases e
      · exact .busy _ v s hb nofun nofun
      · exact .rejected v s c hb hok hbusy
      · exact .command hb hd ha
  | status => obtain rfl := Host.Outcome.next.inj e; exact .ignored _ v s (.inl rfl)
  | config => obtain rfl := Host.Outcome.next.inj e; exact .ignored _ v s (.inr rfl)

/-- What a step can do to the engine: nothing, a host write of a register, a round, a reset. -/
inductive StepEffect (s t : State) : Prop where
  | unchanged : SameEngine s t → StepEffect s t
  | write {r : Reg} {v : Word} {s0 : State} : HostPerforms s (.wr 8 (regOffset r) v) s0 →
      WriteEffect r v s0 t → StepEffect s t
  | round : (nextTurn s).1 = .engine → s.busy = true → t = engineStep (turnUsed s) →
      StepEffect s t
  | reset : (nextTurn s).1 = .reset → t = resetEngine (turnUsed s) → StepEffect s t

/-- The next state of a step is one of its effects on the engine. -/
theorem step_effect {s t : State} (e : step s = .next t) : StepEffect s t := by
  obtain ⟨ht, rfl⟩ | ⟨ht, rfl⟩ | ⟨-, -, rfl⟩ | ⟨off, r, v, s0, hp, ha, hw⟩ |
    ⟨off, r, var, s0, hp, -, rfl⟩ | ⟨s0, hp, ⟨-, rfl⟩ | ⟨-, rfl⟩⟩ |
    ⟨s0, hp, ⟨-, rfl⟩ | ⟨-, rfl⟩⟩ := step_cases e
  · cases hb : s.busy with
    | true => exact .round ht hb rfl
    | false => rw [engineStep_idle (s := turnUsed s) hb]; exact .unchanged (sameEngine_turnUsed s)
  · exact .reset ht rfl
  · exact .unchanged (sameEngine_turnUsed s)
  · obtain ⟨-, rfl⟩ := accessReg_eq_some ha
    exact .write hp (writeReg_effect hw)
  · exact .unchanged (SameEngine.trans hp.sameEngine (sameEngine_afterRead r s0))
  · exact .unchanged (.refl s)
  · exact .unchanged hp.sameEngine
  · exact .unchanged (.refl s)
  · exact .unchanged hp.sameEngine

/-! ### The invariant of legal states -/

theorem inv_cmdRejected {s : State} (h : Inv s) (c : ErrCode) : Inv (cmdRejected c s) := { h with }

theorem inv_accept {s : State} (h : Inv s) : Inv (accept s) := { h with }

theorem inv_absorbWords {s : State} (h : Inv s) (W : List Word) : Inv (absorbWords W s) := { h with }

/-- CONFIG after an accepted INIT: one of the three configured pairs (R23, R162). -/
theorem supported_configPair {n : Nat} (hn : n ∈ [256, 384, 512]) :
    ((BitVec.ofNat 16 n).toNat, (BitVec.ofNat 8 (rateOf n)).toNat) ∈
      [(256, 136), (384, 104), (512, 72)] := by
  simp only [List.mem_cons, List.not_mem_nil, or_false] at hn
  obtain rfl | rfl | rfl := hn <;> decide

/-- INIT installs one of the three pairs and leaves UNCONFIGURED (R23, R25). -/
theorem inv_configure {s : State} {n : Nat} (h : Inv s) (hn : n ∈ [256, 384, 512]) :
    Inv (configure n s) := by
  have pair := supported_configPair hn
  have nonzero : BitVec.ofNat 16 n ≠ 0 := by
    intro hz
    simp [hz] at pair
  exact
    { h with
      configPair := List.mem_cons_of_mem _ pair
      phaseConfig := iff_of_false nofun nonzero
      spongeRounds := fun _ => rfl }

/-- The rounds a command starts keep the invariant when their range is the command's (R130). -/
theorem inv_startRounds {s : State} (h : Inv s) {p : Pend} {r0 r1 : Fin 24} (started : p ≠ .none)
    (order : r0 ≤ r1) (one : p = .round → r0 = r1)
    (full : p = .absorb ∨ p = .final ∨ p = .permute → r1 = 23)
    (sponge : p = .absorb ∨ p = .final → s.sph = .absorbing) : Inv (startRounds p r0 r1 s) :=
  { h with
    pendBusy := iff_of_false started nofun
    roundOrder := order
    idleRound := nofun
    oneRound := one
    fullRounds := full
    spongeRounds := sponge }

/-- A command that is accepted keeps the invariant. -/
theorem Machine.Accepted.inv {i : Instr} {s t : State} (a : Accepted i s t) (h : Inv s) :
    Inv t := by
  have ha : Inv (accept s) := inv_accept h
  cases a with
  | nop => exact ha
  | init _ n hn => exact inv_configure ha hn
  | absorb _ hp | final _ _ hp =>
    exact inv_startRounds (inv_absorbWords ha _) nofun (by decide) nofun (fun _ => rfl) fun _ => hp
  | permute => exact inv_startRounds ha nofun (by decide) nofun (fun _ => rfl) (by simp)
  | round _ r => exact inv_startRounds ha nofun le_rfl (fun _ => rfl) (by simp) (by simp)

theorem WriteEffect.inv {r : Reg} {v : Word} {s t : State} (w : WriteEffect r v s t) (h : Inv s) :
    Inv t := by
  cases w with
  | ignored => exact h
  | busy => exact inv_cmdRejected h .busy
  | rejected _ _ c => exact inv_cmdRejected h c
  | lane => exact { h with }
  | blk => exact { h with }
  | command _ _ a => exact a.inv h

/-- The last step of a command's rounds: a FINAL leaves ABSORBING for SQUEEZING, both configured. -/
theorem inv_finishRounds {s : State} (h : Inv s) (e : s.rcnt = s.rend) : Inv (finishRounds s) :=
  { h with
    phaseConfig := by
      by_cases hf : s.pend = .final
      · have ha : s.sph = .absorbing := h.spongeRounds (.inr hf)
        have hc : ¬ s.outBits = 0#16 := mt h.phaseConfig.2 (by simp [ha])
        simp [hf, hc]
      · simpa [hf] using h.phaseConfig
    pendBusy := by simp
    idleRound := fun _ => e
    oneRound := nofun
    fullRounds := by simp
    spongeRounds := by simp }

/-- A step short of the last one: RCNT is below REND, so it grows by 1 and does not pass it (R27). -/
theorem inv_advanceRound {s : State} (h : Inv s) (hb : s.busy = true) (e : s.rcnt ≠ s.rend) :
    Inv (advanceRound s) := by
  have hlt : s.rcnt < s.rend := lt_of_le_of_ne h.roundOrder e
  exact
    { h with
      roundOrder := by
        have hn := nextRound_val (r := s.rcnt) (by omega)
        simp only [advanceRound_rcnt, advanceRound_rend, Fin.le_def, hn]
        omega
      idleRound := by simp [hb]
      oneRound := fun hp => absurd (h.oneRound hp) e }

theorem inv_engineStep {s : State} (h : Inv s) : Inv (engineStep s) := by
  have ha : Inv (applyRound s) := { h with }
  obtain ⟨-, he⟩ | ⟨-, hr, he⟩ | ⟨hb, hr, he⟩ := engineStep_cases s
  · rw [he]; exact h
  · rw [he]; exact inv_finishRounds ha hr
  · rw [he]; exact inv_advanceRound ha hb hr

theorem inv_resetEngine (s : State) : Inv (resetEngine s) := by
  constructor <;> simp

/-- Settles O42: each effect a step can have on the engine keeps the invariant. -/
theorem stepKeepsInv : Obligations.StepKeepsInv := by
  intro s t h e
  cases step_effect e with
  | unchanged hs => exact hs.inv h
  | write hp hw => exact hw.inv (hp.sameEngine.inv h)
  | round _ _ ht => rw [ht]; exact inv_engineStep ((sameEngine_turnUsed s).inv h)
  | reset _ ht => rw [ht]; exact inv_resetEngine _

/-! ### Who writes SPH and CONFIG -/

/-- A register write leaves SPH and CONFIG alone, or it is an accepted INIT (R23, R25). -/
theorem WriteEffect.config_cases {r : Reg} {v : Word} {s t : State} (w : WriteEffect r v s t) :
    (t.sph = s.sph ∧ t.outBits = s.outBits ∧ t.rate = s.rate) ∨
    (r = .cmd ∧ s.busy = false ∧ ∃ n ∈ [256, 384, 512], decode v = .ok (.init n) ∧
      t = configure n (accept s)) := by
  cases w with
  | ignored | busy | rejected | lane | blk => exact .inl ⟨rfl, rfl, rfl⟩
  | command hb hd a =>
    cases a with
    | init _ n hn => exact .inr ⟨rfl, hb, n, hn, hd, rfl⟩
    | nop | absorb | final | permute | round => exact .inl ⟨rfl, rfl, rfl⟩

/-- A step leaves SPH and CONFIG alone, or it is the acceptance of an INIT, the last step of a FINAL,
which leaves CONFIG alone, or a reset. -/
theorem step_config_cases {s t : State} (e : step s = .next t) :
    (t.sph = s.sph ∧ t.outBits = s.outBits ∧ t.rate = s.rate) ∨
    (∃ s0 w, ∃ n ∈ [256, 384, 512], HostPerforms s (.wr 8 0x200 w) s0 ∧ s.busy = false ∧
      decode w = .ok (.init n) ∧ t = configure n (accept s0)) ∨
    ((nextTurn s).1 = .engine ∧ s.busy = true ∧ s.pend = .final ∧ s.rcnt = s.rend ∧
      t.sph = .squeezing ∧ t.outBits = s.outBits ∧ t.rate = s.rate) ∨
    ((nextTurn s).1 = .reset ∧ t = resetEngine (turnUsed s)) := by
  cases step_effect e with
  | unchanged hs => exact .inl ⟨hs.sph_eq, hs.outBits_eq, hs.rate_eq⟩
  | write hp hw =>
    have hs := hp.sameEngine
    obtain ⟨hsph, hout, hrate⟩ | ⟨rfl, hb, n, hn, hd, ht⟩ := hw.config_cases
    · exact .inl ⟨hsph.trans hs.sph_eq, hout.trans hs.outBits_eq, hrate.trans hs.rate_eq⟩
    · exact .inr (.inl ⟨_, _, n, hn, hp, hs.busy_eq ▸ hb, hd, ht⟩)
  | round hturn hb ht =>
    subst ht
    obtain ⟨-, he⟩ | ⟨-, hr, he⟩ | ⟨-, -, he⟩ := engineStep_cases (turnUsed s)
    · rw [he]; exact .inl ⟨rfl, rfl, rfl⟩
    · by_cases hf : s.pend = .final
      · exact .inr (.inr (.inl ⟨hturn, hb, hf, hr, by simp [he, hf], by simp, by simp⟩))
      · exact .inl ⟨by simp [he, hf], by simp, by simp⟩
    · rw [he]; exact .inl ⟨rfl, rfl, rfl⟩
  | reset hturn ht => exact .inr (.inr (.inr ⟨hturn, ht⟩))

/-- Settles O38: of the steps that may change SPH each gives it the value stated. -/
theorem phaseTransitions : Obligations.PhaseTransitions := by
  intro s t e hne
  obtain ⟨hsph, -⟩ | ⟨s0, w, n, hn, hp, hb, hd, rfl⟩ | ⟨hturn, hb, hf, hr, hsph, -⟩ | ⟨hturn, rfl⟩ :=
    step_config_cases e
  · exact absurd hsph hne
  · exact .inl ⟨s0, w, n, hp, hd, hn, hb, rfl⟩
  · exact .inr (.inl ⟨hturn, hb, hf, hr, hsph⟩)
  · exact .inr (.inr ⟨hturn, rfl⟩)

/-- Settles O39: of the steps that may change SPH or CONFIG the end of a FINAL leaves CONFIG alone. -/
theorem configWriters : Obligations.ConfigWriters := by
  intro s t e hne
  obtain ⟨-, hout, hrate⟩ | ⟨s0, w, n, hn, hp, hb, hd, rfl⟩ | ⟨-, -, -, -, -, hout, hrate⟩ |
    ⟨hturn, rfl⟩ := step_config_cases e
  · simp [hout, hrate] at hne
  · exact .inl ⟨s0, w, n, hp, hd, hn, hb, rfl, rfl⟩
  · simp [hout, hrate] at hne
  · exact .inr ⟨hturn, rfl, rfl⟩

/-! ### Who writes the lane file and the block buffer -/

/-- A register write changes BLK only when it writes a BLK register while idle (R22, R45). -/
theorem WriteEffect.blk_cases {r : Reg} {v : Word} {s t : State} (w : WriteEffect r v s t) :
    t.blk = s.blk ∨ (s.busy = false ∧ ∃ j, r = .blk j) := by
  cases w with
  | ignored | busy | rejected | lane => exact .inl rfl
  | blk j _ _ hb => exact .inr ⟨hb, j, rfl⟩
  | command _ _ a => cases a <;> exact .inl rfl

/-- A register write changes the lanes only when it writes a LANE register while idle, or is an accepted
INIT, ABSORB or FINAL (R20, R44). -/
theorem WriteEffect.lanes_cases {r : Reg} {v : Word} {s t : State} (w : WriteEffect r v s t) :
    t.lanes = s.lanes ∨ (s.busy = false ∧ ∃ i, r = .lane i) ∨
    (s.busy = false ∧ r = .cmd ∧ t.err = .ok ∧ ∃ i, decode v = .ok i ∧
      (i = .absorb ∨ (∃ n, i = .init n) ∨ ∃ len, i = .final len)) := by
  cases w with
  | ignored | busy | rejected | blk => exact .inl rfl
  | lane i _ _ hb => exact .inr (.inl ⟨hb, i, rfl⟩)
  | command hb hd a =>
    cases a with
    | nop | permute | round => exact .inl rfl
    | init _ n => exact .inr (.inr ⟨hb, rfl, rfl, _, hd, .inr (.inl ⟨n, rfl⟩)⟩)
    | absorb => exact .inr (.inr ⟨hb, rfl, rfl, _, hd, .inl rfl⟩)
    | final _ len => exact .inr (.inr ⟨hb, rfl, rfl, _, hd, .inr (.inr ⟨len, rfl⟩)⟩)

/-- While BUSY = 1 an engine step applies the round at RCNT to the lanes, the last one too (R131). -/
theorem engineStep_lanes_of_busy {s : State} (h : s.busy = true) :
    (engineStep s).lanes = rnd s.lanes s.rcnt := by
  by_cases e : s.rcnt = s.rend
  · simp [engineStep_last h e]
  · simp [engineStep_more h e]

theorem blk_writers {s t : State} (e : step s = .next t) (hne : t.blk ≠ s.blk) :
    (s.busy = false ∧ ∃ s0 v, ∃ j : Fin 17, HostPerforms s (.wr 8 (0x100 + 8 * j.val) v) s0) ∨
    (nextTurn s).1 = .reset := by
  cases step_effect e with
  | unchanged hs => exact absurd hs.blk_eq hne
  | write hp hw =>
    have hs := hp.sameEngine
    obtain hblk | ⟨hb, j, rfl⟩ := hw.blk_cases
    · exact absurd (hblk.trans hs.blk_eq) hne
    · exact .inl ⟨hs.busy_eq ▸ hb, _, _, j, hp⟩
  | round _ _ ht => exact absurd (by simp [ht]) hne
  | reset hturn _ => exact .inr hturn

theorem lanes_writers {s t : State} (e : step s = .next t) (hne : t.lanes ≠ s.lanes) :
    (s.busy = false ∧ ∃ s0 v, ∃ i : Fin 25, HostPerforms s (.wr 8 (8 * i.val) v) s0) ∨
    (s.busy = false ∧ t.err = .ok ∧ ∃ s0 w i, HostPerforms s (.wr 8 0x200 w) s0 ∧ decode w = .ok i ∧
      (i = .absorb ∨ (∃ n, i = .init n) ∨ ∃ len, i = .final len)) ∨
    ((nextTurn s).1 = .engine ∧ s.busy = true ∧ t.lanes = rnd s.lanes s.rcnt) ∨
    (nextTurn s).1 = .reset := by
  cases step_effect e with
  | unchanged hs => exact absurd hs.lanes_eq hne
  | write hp hw =>
    have hs := hp.sameEngine
    obtain hlanes | ⟨hb, i, rfl⟩ | ⟨hb, rfl, herr, i, hd, hi⟩ := hw.lanes_cases
    · exact absurd (hlanes.trans hs.lanes_eq) hne
    · exact .inl ⟨hs.busy_eq ▸ hb, _, _, i, hp⟩
    · exact .inr (.inl ⟨hs.busy_eq ▸ hb, herr, _, _, i, hp, hd, hi⟩)
  | round hturn hb ht =>
    exact .inr (.inr (.inl ⟨hturn, hb, ht ▸ engineStep_lanes_of_busy (s := turnUsed s) hb⟩))
  | reset hturn _ => exact .inr (.inr (.inr hturn))

/-- Settles O40: the writers of each of the two are those of the step's effects that touch it. -/
theorem dataWriters : Obligations.DataWriters :=
  ⟨fun _ _ => blk_writers, fun _ _ => lanes_writers⟩

/-! ### The fields of STATUS and CONFIG -/

theorem Machine.Phase.code_lt (p : Phase) : p.code < 4 := by cases p <;> decide

theorem Machine.ErrCode.code_lt (c : ErrCode) : c.code < 16 := by cases c <;> decide

/-- The OR of a value below `2 ^ k` and a multiple of `2 ^ k` is their sum. -/
theorem or_mul_two_pow_eq_add {a k : Nat} (h : a < 2 ^ k) (b : Nat) :
    a ||| b * 2 ^ k = a + b * 2 ^ k := by
  rw [Nat.or_comm, Nat.mul_comm, ← Nat.two_pow_add_eq_or_of_lt h, Nat.add_comm]

/-- A value moved up by `k` bits that stays in the word. -/
theorem toNat_shiftLeft_of_lt {v : Word} {k : Nat} (h : v.toNat * 2 ^ k < 2 ^ 64) :
    (v <<< k).toNat = v.toNat * 2 ^ k := by
  rw [BitVec.toNat_shiftLeft, Nat.shiftLeft_eq, Nat.mod_eq_of_lt h]

theorem toNat_ofNat_of_lt {n : Nat} (h : n < 2 ^ 64) : (BitVec.ofNat 64 n).toNat = n := by
  rw [BitVec.toNat_ofNat, Nat.mod_eq_of_lt h]

/-- STATUS as a number: no two of its fields overlap (R24). -/
theorem toNat_statusWord (s : State) : (statusWord s).toNat =
    s.busy.toNat + s.sph.code * 2 ^ 1 + s.err.code * 2 ^ 4 + s.rcnt.val * 2 ^ 8 := by
  have hb := s.busy.toNat_lt
  have hp := s.sph.code_lt
  have he := s.err.code_lt
  have hr := s.rcnt.isLt
  have eb := toNat_ofNat_of_lt (n := s.busy.toNat) (by omega)
  have ep := toNat_ofNat_of_lt (n := s.sph.code) (by omega)
  have ee := toNat_ofNat_of_lt (n := s.err.code) (by omega)
  have er := toNat_ofNat_of_lt (n := s.rcnt.val) (by omega)
  rw [statusWord, BitVec.toNat_or, BitVec.toNat_or, BitVec.toNat_or, toNat_shiftLeft_of_lt (by omega),
    toNat_shiftLeft_of_lt (by omega), toNat_shiftLeft_of_lt (by omega), eb, ep, ee, er,
    or_mul_two_pow_eq_add (k := 1) (by omega), or_mul_two_pow_eq_add (k := 4) (by omega),
    or_mul_two_pow_eq_add (k := 8) (by omega)]

/-- CONFIG as a number: its two fields do not overlap (R23). -/
theorem toNat_configWord (s : State) :
    (configWord s).toNat = s.outBits.toNat + s.rate.toNat * 2 ^ 16 := by
  have ho := s.outBits.isLt
  have hr := s.rate.isLt
  have eo : (s.outBits.setWidth 64).toNat = s.outBits.toNat :=
    BitVec.toNat_setWidth_of_le (by decide)
  have er : (s.rate.setWidth 64).toNat = s.rate.toNat := BitVec.toNat_setWidth_of_le (by decide)
  rw [configWord, BitVec.toNat_or, toNat_shiftLeft_of_lt (by omega), eo, er, or_mul_two_pow_eq_add ho]

/-- Settles O26: the fields are the digits of STATUS and CONFIG read as sums of shifted values. -/
theorem statusAndConfigFields : Obligations.StatusAndConfigFields := by
  intro s
  have hb := s.busy.toNat_lt
  have hp := s.sph.code_lt
  have he := s.err.code_lt
  have hr := s.rcnt.isLt
  have ho := s.outBits.isLt
  have hrate := s.rate.isLt
  simp only [field, toNat_statusWord, toNat_configWord, Nat.shiftRight_eq_div_pow]
  refine ⟨?_, ?_, ?_, ?_, ?_, ?_, ?_, ?_, ?_, ⟨rfl, rfl, rfl⟩, rfl, rfl, rfl, rfl, rfl, rfl, rfl⟩ <;>
    omega

end Sys2Proof
end

section
/-!
The host register window (20_memory.md R40 to R52): which accesses are legal, what a step that reads or
writes a register does, the outcomes of a step, and the bytes of lanes.
-/

namespace Sys2Proof

open Sys2Proof.Machine

/-! ### The map of the window -/

/-- No register stands at an offset exactly when it is misaligned or reserved (R41). -/
theorem Machine.regAt_eq_none_iff (off : Nat) :
    regAt off = none ↔ off % 8 ≠ 0 ∨ ReservedOffset off := by
  unfold regAt ReservedOffset
  split_ifs <;> simp only [true_iff, false_iff] <;> omega

/-- An access is illegal for its width, its alignment or its offset (R42). -/
theorem Machine.accessReg_eq_none_iff (width off : Nat) :
    accessReg width off = none ↔ width ≠ 8 ∨ off % 8 ≠ 0 ∨ ReservedOffset off := by
  by_cases hw : width = 8
  · simp [accessReg, hw, regAt_eq_none_iff]
  · simp [accessReg, hw]

/-- Settles O20: each register is reached at its own offset, and the offsets left over are the reserved
ones. -/
theorem windowMap : Obligations.WindowMap :=
  ⟨fun i => (Nat.zero_add (8 * i.val)).symm ▸ accessReg_regOffset (.lane i),
    fun j => accessReg_regOffset (.blk j),
    accessReg_regOffset .cmd, accessReg_regOffset .status, accessReg_regOffset .config,
    accessReg_eq_none_iff⟩

/-! ### What a read answers and leaves behind -/

theorem Machine.readReg_lane_idle {s : State} (hb : s.busy = false) (i : Fin 25) :
    readReg (.lane i) s = s.lanes[i] := by
  simp [readReg, hb]

theorem Machine.readReg_lane_busy {s : State} (hb : s.busy = true) (i : Fin 25) :
    readReg (.lane i) s = Config.freeLaneRead s.stream s.draws := by
  simp [readReg, hb]

theorem Machine.afterRead_lane_idle {s : State} (hb : s.busy = false) (i : Fin 25) :
    afterRead (.lane i) s = s := by
  simp [afterRead, hb]

theorem Machine.afterRead_lane_busy {s : State} (hb : s.busy = true) (i : Fin 25) :
    afterRead (.lane i) s = countDraw s := by
  simp [afterRead, hb]

@[simp] theorem Machine.afterRead_observed (r : Reg) (s : State) :
    (afterRead r s).observed = s.observed := by
  cases r with
  | lane i =>
    cases hb : s.busy with
    | true => rw [afterRead_lane_busy hb, countDraw_observed]
    | false => rw [afterRead_lane_idle hb]
  | blk | cmd | status | config => rfl

@[simp] theorem readReg_turnUsed (r : Reg) (s : State) : readReg r (turnUsed s) = readReg r s := by
  cases r <;> rfl

/-! ### A step that accesses the window -/

section

variable {s s0 : State} {r : Reg} {v : Word} {var : HostVar} {width off : Nat}

/-- A write at the offset of a register is the write of that register. -/
theorem step_wr_reg (h : HostPerforms s (.wr 8 (regOffset r) v) s0) : step s = writeReg r v s0 := by
  rw [step_wr h, accessReg_regOffset]

/-- A read at the offset of a register names that register's value and uses up no more than a free
draw. -/
theorem step_rd_reg (h : HostPerforms s (.rd var 8 (regOffset r)) s0) :
    step s = .next { afterRead r s0 with observed := (var, readReg r s) :: s.observed } := by
  have hobs : s0.observed = s.observed := by
    obtain ⟨rest, -, rfl, -⟩ := h.state
    rfl
  rw [step_rd h, accessReg_regOffset]
  simp only [observe, readReg_turnUsed, afterRead_observed, hobs]

theorem step_wr_fault_iff (h : HostPerforms s (.wr width off v) s0) :
    step s = .fault (.busError off) ↔ accessReg width off = none := by
  rw [step_wr h]
  cases accessReg width off with
  | none => simp
  | some r =>
    obtain ⟨t, ht⟩ := writeReg_answers r v s0
    simp [ht]

theorem step_rd_fault_iff (h : HostPerforms s (.rd var width off) s0) :
    step s = .fault (.busError off) ↔ accessReg width off = none := by
  rw [step_rd h]
  cases accessReg width off <;> simp

end

/-- Settles O21: a write and a read fault on the same accesses, those that reach no register. -/
theorem illegalAccessIsBusError : Obligations.IllegalAccessIsBusError := fun _ _ width off =>
  ⟨fun _ h => (step_wr_fault_iff h).trans (accessReg_eq_none_iff width off),
    fun _ h => (step_rd_fault_iff h).trans (accessReg_eq_none_iff width off)⟩

/-- The host's turn accesses the window at `off` and reaches no register. -/
def AccessesNoRegister (s : State) (off : Nat) : Prop :=
  ∃ width s0, accessReg width off = none ∧
    ((∃ v, HostPerforms s (.wr width off v) s0) ∨ ∃ var, HostPerforms s (.rd var width off) s0)

theorem AccessesNoRegister.step_fault {s : State} {off : Nat} (h : AccessesNoRegister s off) :
    step s = .fault (.busError off) := by
  obtain ⟨width, s0, ha, ⟨v, hp⟩ | ⟨var, hp⟩⟩ := h
  · exact (step_wr_fault_iff hp).2 ha
  · exact (step_rd_fault_iff hp).2 ha

/-- The host's statement gives a next state unless it is an access that reaches no register. -/
theorem HostPerforms.step_next_or_illegal {s s0 : State} {st : HostStmt} (h : HostPerforms s st s0) :
    (∃ t, step s = .next t) ∨ ∃ off, AccessesNoRegister s off := by
  cases st with
  | wr width off v =>
    cases ha : accessReg width off with
    | none => exact .inr ⟨off, width, s0, ha, .inl ⟨v, h⟩⟩
    | some r => rw [step_wr h, ha]; exact .inl (writeReg_answers r v s0)
  | rd var width off =>
    cases ha : accessReg width off with
    | none => exact .inr ⟨off, width, s0, ha, .inr ⟨var, h⟩⟩
    | some r => rw [step_rd h, ha]; exact .inl ⟨_, rfl⟩
  | wait => rw [step_wait h, ← apply_ite]; exact .inl ⟨_, rfl⟩
  | check => rw [step_check h, ← apply_ite]; exact .inl ⟨_, rfl⟩

/-- A step gives a next state unless the host's turn is an access that reaches no register. -/
theorem step_next_or_illegal (s : State) :
    (∃ t, step s = .next t) ∨ ∃ off, AccessesNoRegister s off := by
  cases ht : (nextTurn s).1 with
  | engine => exact .inl ⟨_, step_engine ht⟩
  | reset => exact .inl ⟨_, step_reset ht⟩
  | host =>
    cases hp : s.program with
    | nil =>
      rw [step_host ht, hostTurn, show (turnUsed s).program = _ from hp]
      exact .inl ⟨_, rfl⟩
    | cons st rest =>
      exact HostPerforms.step_next_or_illegal (st := st) ⟨ht, rest, hp, rfl⟩

/-- Settles O7: a step has two outcomes, a next state or the fault of an illegal access. -/
theorem stepFaultsOnlyByBusError : Obligations.StepFaultsOnlyByBusError := by
  refine ⟨fun s r e => ?_, fun s off => ⟨fun e => ?_, AccessesNoRegister.step_fault⟩⟩
  · obtain ⟨t, hn⟩ | ⟨off', hi⟩ := step_next_or_illegal s
    · cases e.symm.trans hn
    · cases e.symm.trans hi.step_fault
  · obtain ⟨t, hn⟩ | ⟨off', hi⟩ := step_next_or_illegal s
    · cases e.symm.trans hn
    · cases e.symm.trans hi.step_fault
      exact hi

/-- Settles O28: neither the turn and the statement used up nor the read itself touch the engine. -/
theorem readsHaveNoSideEffect : Obligations.ReadsHaveNoSideEffect := by
  intro s s0 t var width off h e
  rw [step_rd h] at e
  cases ha : accessReg width off with
  | none => rw [ha] at e; cases e
  | some r =>
    rw [ha] at e
    cases e
    exact h.sameEngine.trans (sameEngine_afterRead r s0)

/-! ### What each register answers -/

/-- Settles O27: the value written is what the register holds, and no other register's value depends on
it. -/
theorem readAfterWrite : Obligations.ReadAfterWrite := by
  rintro s t r r' v hb (⟨i, rfl⟩ | ⟨j, rfl⟩) e
  · obtain rfl : writeLane i v s = t := Host.Outcome.next.inj e
    rw [writeLane_idle hb]
    cases r' with
    | lane k => simp [readReg_lane_idle, hb, Vector.getElem_set, Fin.ext_iff, eq_comm]
    | blk | cmd | status | config => rfl
  · obtain rfl : writeBlk j v s = t := Host.Outcome.next.inj e
    rw [writeBlk_idle hb]
    cases r' with
    | blk k => simp [readReg, Vector.getElem_set, Fin.ext_iff, eq_comm]
    | lane | cmd | status | config => rfl

/-- Settles O22: what a LANE read answers and what it leaves behind are both decided by BUSY. -/
theorem laneRead : Obligations.LaneRead := by
  intro s s0 var i h
  have hstep := step_rd_reg (r := .lane i) h
  obtain ⟨rest, -, rfl, -⟩ := h.state
  refine ⟨fun hb => ?_, fun hb => ?_⟩
  · rw [hstep, readReg_lane_idle hb, afterRead_lane_idle (by exact hb)]
  · rw [hstep, readReg_lane_busy hb, afterRead_lane_busy (by exact hb)]; rfl

/-- Settles O23: BUSY alone decides whether the lane is set or the write is rejected; SPH plays no part. -/
theorem laneWrite : Obligations.LaneWrite := by
  intro s s0 i v h
  have hstep := step_wr_reg (r := .lane i) h
  have hs := h.sameEngine
  refine ⟨fun hb => ?_, fun hb => ?_⟩
  · rw [hstep, writeReg, writeLane_idle (hs.busy_eq.trans hb), hs.lanes_eq]
  · rw [hstep, writeReg, writeLane_busy (hs.busy_eq.trans hb)]; rfl

/-- Settles O24: only the write of a block word depends on BUSY. -/
theorem blkAccess : Obligations.BlkAccess := by
  intro s s0 j
  refine ⟨fun v h => ?_, fun var h => step_rd_reg (r := .blk j) h⟩
  have hstep := step_wr_reg (r := .blk j) h
  have hs := h.sameEngine
  refine ⟨fun hb => ?_, fun hb => ?_⟩
  · rw [hstep, writeReg, writeBlk_idle (hs.busy_eq.trans hb), hs.blk_eq]
  · rw [hstep, writeReg, writeBlk_busy (hs.busy_eq.trans hb)]; rfl

/-- Settles O25: each is the access of its register, which names no condition on BUSY. -/
theorem controlRegisterAccess : Obligations.ControlRegisterAccess := fun _ _ =>
  ⟨fun _ h => step_rd_reg (r := .cmd) h, fun _ h => step_rd_reg (r := .status) h,
    fun _ h => step_rd_reg (r := .config) h, fun _ h => step_wr_reg (r := .status) h,
    fun _ h => step_wr_reg (r := .config) h⟩

/-! ### The write of CMD -/

theorem step_wr_cmd {s s0 : State} {w : Word} {i : Instr} (h : HostPerforms s (.wr 8 0x200 w) s0)
    (hd : decode w = .ok i) : step s = exec i s0 :=
  (step_wr_reg (r := .cmd) h).trans (writeReg_cmd_of_decode hd s0)

theorem hostPerforms_placeCommand (w : Word) (s : State) :
    HostPerforms (placeCommand w s) (.wr 8 0x200 w) s := ⟨rfl, s.program, rfl, rfl⟩

theorem decode_of_decodeTableWord {nbits w : Nat} {i : Instr} (h : decodeTableWord nbits w = some i) :
    decode (BitVec.ofNat 64 (w % 2 ^ nbits)) = .ok i := by
  rw [decodeTableWord] at h
  cases hd : decode (BitVec.ofNat 64 (w % 2 ^ nbits)) with
  | error e => rw [hd] at h; cases h
  | ok j => rw [hd] at h; cases h; rfl

/-- Settles O6: a placed word is performed as the write of CMD it is. -/
theorem stepRunsDecodedCommand : Obligations.StepRunsDecodedCommand :=
  ⟨fun _ _ _ _ => step_wr_cmd, fun s _ _ h =>
    step_wr_cmd (hostPerforms_placeCommand _ s) (decode_of_decodeTableWord h)⟩

/-! ### Lanes and bytes -/

@[simp] theorem Machine.getElem_lanesFromBytes (b : List Byte) (w : Nat)
    (h : w < (lanesFromBytes b).length) : (lanesFromBytes b)[w] = wordAtBytes b w := by
  simp [lanesFromBytes]

/-- Byte `8i + m` of the 200-byte view is byte `m` of lane `i` (R52). -/
theorem Machine.getD_stateBytes (A : Lanes) {i m : Nat} (hi : i < 25) (hm : m < 8) :
    (stateBytes A).getD (8 * i + m) 0 = byteOf A[i] m := by
  rw [List.getD_eq_getElem _ _ (by rw [length_stateBytes]; omega),
    getElem_stateBytes A _ (by omega)]
  simp only [show (8 * i + m) / 8 = i by omega, show (8 * i + m) % 8 = m by omega]

/-- Settles O46: a word is its eight bytes, in both directions. -/
theorem lanesAndBytesInverse : Obligations.LanesAndBytesInverse := by
  refine ⟨fun A => List.ext_getElem (by simp) fun i _ hi => ?_, fun b k h8 hk => ?_⟩
  · have hi25 : i < 25 := by simpa using hi
    rw [getElem_lanesFromBytes, Vector.getElem_toList]
    refine word_ext_bytes fun m hm => ?_
    rw [byteOf_wordAtBytes _ _ _ hm, getD_stateBytes A hi25 hm]
  · rw [List.getD_eq_getElem _ _ (by rw [length_lanesFromBytes]; omega), getElem_lanesFromBytes,
      byteOf_wordAtBytes _ _ _ (Nat.mod_lt k (by decide)), Nat.div_add_mod]

end Sys2Proof
end

section
/-!
The encoding (30_encoding.md R70 to R75): words as numbers and by their fields, decoding and encoding as
inverses, the rows of the opcode map, and the words outside it.
-/

namespace Sys2Proof

open Sys2Proof.Machine

/-! ### Words and their fields as numbers -/

theorem field_eq_div_mod (w : Word) (hi lo : Nat) :
    field w hi lo = w.toNat / 2 ^ lo % 2 ^ (hi + 1 - lo) := by
  rw [field, Nat.shiftRight_eq_div_pow]

/-- A word with an operand as a number: the operand lies above every bit of the pattern (R71). -/
theorem toNat_or_placeField {p : Word} {v lo : Nat} (hp : p.toNat < 2 ^ lo) (hv : v * 2 ^ lo < 2 ^ 64) :
    (p ||| placeField v lo).toNat = p.toNat + v * 2 ^ lo := by
  have e := toNat_ofNat_of_lt (lt_of_le_of_lt (Nat.le_mul_of_pos_right v (Nat.two_pow_pos lo)) hv)
  rw [BitVec.toNat_or, placeField, toNat_shiftLeft_of_lt (by rwa [e]), e, or_mul_two_pow_eq_add hp]

/-- The word of a command with a byte operand, FINAL or ROUND, by its opcode (R71). -/
abbrev byteOperandWord (op v : Nat) : Word := BitVec.ofNat 64 op ||| placeField v 8

theorem toNat_byteOperandWord {op v : Nat} (hop : op < 2 ^ 4) (hv : v < 2 ^ 8) :
    (byteOperandWord op v).toNat = op + v * 2 ^ 8 := by
  have e := toNat_ofNat_of_lt (n := op) (by omega)
  rw [toNat_or_placeField (by omega) (by omega), e]

theorem toNat_encode_init {n : Nat} (hn : n < 2 ^ 16) : (encode (.init n)).toNat = 1 + n * 2 ^ 16 :=
  toNat_or_placeField (by decide) (by omega)

/-! ### Decoding an encoding -/

theorem fields_encode_init {n : Nat} (hn : n < 2 ^ 16) :
    field (encode (.init n)) 3 0 = 1 ∧ field (encode (.init n)) 15 4 = 0 ∧
      field (encode (.init n)) 63 32 = 0 ∧ field (encode (.init n)) 31 16 = n := by
  simp only [field_eq_div_mod, toNat_encode_init hn]
  omega

theorem fields_byteOperandWord {op v : Nat} (hop : op < 2 ^ 4) (hv : v < 2 ^ 8) :
    field (byteOperandWord op v) 3 0 = op ∧ field (byteOperandWord op v) 7 4 = 0 ∧
      field (byteOperandWord op v) 63 16 = 0 ∧ field (byteOperandWord op v) 15 8 = v := by
  simp only [field_eq_div_mod, toNat_byteOperandWord hop hv]
  omega

/-- Settles O1: the fields of an encoding are those the decoder asks for, and its operand field is the
operand. -/
theorem decodeOfEncode : Obligations.DecodeOfEncode := by
  intro i hwf
  cases i with
  | nop => decide
  | absorb => decide
  | permute => decide
  | init n =>
    obtain ⟨-, toInit, -⟩ := decode_of_fields (w := encode (.init n))
    obtain ⟨hop, hlow, hhigh, hoperand⟩ := fields_encode_init (of_decide_eq_true hwf)
    rw [toInit hop hlow hhigh, hoperand]
  | final len =>
    obtain ⟨-, -, -, toFinal, -⟩ := decode_of_fields (w := encode (.final len))
    obtain ⟨hop, hlow, hhigh, hoperand⟩ :=
      fields_byteOperandWord (op := 3) (by decide) (of_decide_eq_true hwf)
    exact (toFinal hop hlow hhigh).trans (by rw [encode, hoperand])
  | round ridx =>
    obtain ⟨-, -, -, -, -, toRound⟩ := decode_of_fields (w := encode (.round ridx))
    obtain ⟨hop, hlow, hhigh, hoperand⟩ :=
      fields_byteOperandWord (op := 5) (by decide) (of_decide_eq_true hwf)
    exact (toRound hop hlow hhigh).trans (by rw [encode, hoperand])

/-! ### Encoding a decoded command -/

/-- A word with no bit above its opcode is its opcode. -/
theorem ofNat_opcode_eq {w : Word} {op : Nat} (hop : field w 3 0 = op) (hhigh : field w 63 4 = 0) :
    BitVec.ofNat 64 op = w := by
  rw [field_eq_div_mod] at hop hhigh
  have e := toNat_ofNat_of_lt (n := op) (by omega)
  exact BitVec.eq_of_toNat_eq (by omega)

theorem encode_init_operand {w : Word} (hop : field w 3 0 = 1) (hlow : field w 15 4 = 0)
    (hhigh : field w 63 32 = 0) : encode (.init (field w 31 16)) = w := by
  refine BitVec.eq_of_toNat_eq ?_
  rw [toNat_encode_init (field_lt w 31 16)]
  rw [field_eq_div_mod] at hop hlow hhigh ⊢
  omega

theorem byteOperandWord_operand {w : Word} {op : Nat} (hop : field w 3 0 = op)
    (hlow : field w 7 4 = 0) (hhigh : field w 63 16 = 0) :
    byteOperandWord op (field w 15 8) = w := by
  refine BitVec.eq_of_toNat_eq ?_
  rw [toNat_byteOperandWord (hop ▸ field_lt w 3 0) (field_lt w 15 8)]
  rw [field_eq_div_mod] at hop hlow hhigh ⊢
  omega

/-- Settles O2: the fields the decoder tests and the operand it takes are all the bits of the word. -/
theorem encodeOfDecode : Obligations.EncodeOfDecode := by
  intro w i h
  obtain ⟨rfl, hop, hhigh⟩ | ⟨rfl, hop, hlow, hhigh⟩ | ⟨rfl, hop, hhigh⟩ | ⟨rfl, hop, hlow, hhigh⟩ |
    ⟨rfl, hop, hhigh⟩ | ⟨rfl, hop, hlow, hhigh⟩ := decode_cases h
  · exact ⟨rfl, ofNat_opcode_eq hop hhigh⟩
  · exact ⟨decide_eq_true (field_lt w 31 16), encode_init_operand hop hlow hhigh⟩
  · exact ⟨rfl, ofNat_opcode_eq hop hhigh⟩
  · exact ⟨decide_eq_true (field_lt w 15 8), byteOperandWord_operand hop hlow hhigh⟩
  · exact ⟨rfl, ofNat_opcode_eq hop hhigh⟩
  · exact ⟨decide_eq_true (field_lt w 15 8), byteOperandWord_operand hop hlow hhigh⟩

/-! ### The rows of the opcode map -/

/-- The encoding of a well-formed command selects the command's row. -/
theorem encode_selects_row {i : Instr} (hwf : i.wf = true) :
    ∃ row, rowOf i = some row ∧ row.selects (encode i) = true := by
  cases i with
  | nop => exact Laws.SelectsRow.nop hwf
  | init n => exact Laws.SelectsRow.init n hwf
  | absorb => exact Laws.SelectsRow.absorb hwf
  | final len => exact Laws.SelectsRow.final len hwf
  | permute => exact Laws.SelectsRow.permute hwf
  | round ridx => exact Laws.SelectsRow.round ridx hwf

theorem decode_selects_row {w : Word} {i : Instr} (h : decode w = .ok i) :
    ∃ row, rowOf i = some row ∧ row.selects w = true := by
  obtain ⟨hwf, rfl⟩ := encodeOfDecode w i h
  exact encode_selects_row hwf

/-- On bits its row's mask covers, a word that selects the row has the row's pattern. -/
theorem field_of_selects {row : OpcodeRow} {w : Word} {hi lo : Nat} (h : row.selects w = true)
    (hmask : field row.mask hi lo = 2 ^ (hi + 1 - lo) - 1) :
    field w hi lo = field row.pattern hi lo := by
  refine Nat.eq_of_testBit_eq fun j => ?_
  have hm := congrArg (Nat.testBit · j) hmask
  simp only [testBit_field, Nat.testBit_two_pow_sub_one] at hm ⊢
  rw [← beq_iff_eq.1 h, BitVec.getLsbD_and]
  cases hj : decide (j < hi + 1 - lo) with
  | false => rfl
  | true =>
    rw [hj, Bool.true_and] at hm
    rw [hm, Bool.and_true]

/-- A word that selects a row decodes: the row's mask covers every field the decoder tests. -/
theorem decode_of_selects {w : Word} {row : OpcodeRow} (hrow : row ∈ opcodeTable)
    (h : row.selects w = true) : ∃ i, decode w = .ok i := by
  obtain ⟨toNop, toInit, toAbsorb, toFinal, toPermute, toRound⟩ := decode_of_fields (w := w)
  have hf := fun hi lo => field_of_selects (hi := hi) (lo := lo) h
  simp only [opcodeTable, List.mem_cons, List.not_mem_nil, or_false] at hrow
  obtain rfl | rfl | rfl | rfl | rfl | rfl := hrow
  · exact ⟨_, toNop (hf 3 0 (by decide)) (hf 63 4 (by decide))⟩
  · exact ⟨_, toInit (hf 3 0 (by decide)) (hf 15 4 (by decide)) (hf 63 32 (by decide))⟩
  · exact ⟨_, toAbsorb (hf 3 0 (by decide)) (hf 63 4 (by decide))⟩
  · exact ⟨_, toFinal (hf 3 0 (by decide)) (hf 7 4 (by decide)) (hf 63 16 (by decide))⟩
  · exact ⟨_, toPermute (hf 3 0 (by decide)) (hf 63 4 (by decide))⟩
  · exact ⟨_, toRound (hf 3 0 (by decide)) (hf 7 4 (by decide)) (hf 63 16 (by decide))⟩

theorem decodes_iff_selects (w : Word) :
    (∃ i, decode w = .ok i) ↔ ∃ row ∈ opcodeTable, row.selects w = true := by
  constructor
  · rintro ⟨i, h⟩
    obtain ⟨row, hrow, hsel⟩ := decode_selects_row h
    exact ⟨row, List.mem_of_find?_eq_some hrow, hsel⟩
  · rintro ⟨row, hrow, hsel⟩
    exact decode_of_selects hrow hsel

/-- Every row fixes all four bits of OP. -/
theorem opcode_of_selects {w : Word} {row : OpcodeRow} (hrow : row ∈ opcodeTable)
    (h : row.selects w = true) : field w 3 0 = field row.pattern 3 0 :=
  have covered : ∀ r ∈ opcodeTable, field r.mask 3 0 = 2 ^ 4 - 1 := by decide
  field_of_selects h (covered row hrow)

theorem row_eq_of_opcode_eq : ∀ r₁ ∈ opcodeTable, ∀ r₂ ∈ opcodeTable,
    field r₁.pattern 3 0 = field r₂.pattern 3 0 → r₁ = r₂ := by decide

/-- Settles O3: a legal word is the encoding of its command, which selects the command's row; and two rows
that select one word have the same OP. -/
theorem decodeFollowsOpcodeTable : Obligations.DecodeFollowsOpcodeTable :=
  ⟨decodes_iff_selects, fun _ _ => decode_selects_row, fun _ r₁ r₂ h₁ h₂ s₁ s₂ =>
    row_eq_of_opcode_eq r₁ h₁ r₂ h₂ ((opcode_of_selects h₁ s₁).symm.trans (opcode_of_selects h₂ s₂))⟩

/-! ### Illegal words -/

theorem selects_eq_false_iff (w : Word) :
    (∀ row ∈ opcodeTable, row.selects w = false) ↔ ∃ e, decode w = .error e := by
  refine ⟨fun hsel => ?_, fun ⟨e, hd⟩ row hrow => Bool.eq_false_iff.2 fun hsel => ?_⟩
  · cases hd : decode w with
    | error e => exact ⟨e, rfl⟩
    | ok i =>
      obtain ⟨row, hrow, h⟩ := (decodes_iff_selects w).1 ⟨i, hd⟩
      cases h.symm.trans (hsel row hrow)
  · obtain ⟨i, hi⟩ := decode_of_selects hrow hsel
    cases hd.symm.trans hi

/-- What a word that decodes cannot have: a reserved opcode, a nonzero reserved bit, or a nonzero bit in an
operand field its OP does not use (R74). -/
theorem fields_of_decode {w : Word} {i : Instr} (h : decode w = .ok i) :
    field w 3 0 < 6 ∧ field w 7 4 = 0 ∧ field w 63 32 = 0 ∧
      (field w 15 8 = 0 ∨ field w 3 0 = 3 ∨ field w 3 0 = 5) ∧
      (field w 31 16 = 0 ∨ field w 3 0 = 1) := by
  have hcases := decode_cases h
  simp only [field_eq_div_mod] at hcases ⊢
  omega

theorem step_illegal_idle {s s0 : State} {w : Word} {e : Illegal}
    (h : HostPerforms s (.wr 8 0x200 w) s0) (hb : s.busy = false) (hd : decode w = .error e) :
    step s = .next { s0 with err := .illegalCommand } := by
  have hb0 : ¬s0.busy = true := by simp [h.sameEngine.busy_eq, hb]
  rw [step_wr_reg (r := .cmd) h, writeReg_cmd_of_illegal hd, if_neg hb0]
  rfl

theorem step_cmd_busy {s s0 : State} {w : Word} (h : HostPerforms s (.wr 8 0x200 w) s0)
    (hb : s.busy = true) : step s = .next { s0 with err := .busy } :=
  (step_wr_reg (r := .cmd) h).trans (guardIdle_busy (h.sameEngine.busy_eq.trans hb) _)

/-- Settles O5: the words outside the map are those that do not decode, and BUSY is tested before the
word. -/
theorem illegalWordRejected : Obligations.IllegalWordRejected := by
  refine ⟨fun s s0 w h hb hsel => ?_, fun _ _ _ => step_cmd_busy, fun w hw => ?_⟩
  · obtain ⟨e, hd⟩ := (selects_eq_false_iff w).1 hsel
    exact step_illegal_idle h hb hd
  · refine (selects_eq_false_iff w).2 ?_
    cases hd : decode w with
    | error e => exact ⟨e, rfl⟩
    | ok i =>
      have := fields_of_decode hd
      omega

/-- Settles O4: the decoder run on each word. -/
theorem workedWordsDecode : Obligations.WorkedWordsDecode := by
  unfold Obligations.WorkedWordsDecode
  decide

end Sys2Proof
end

section
/-!
The pseudo-instructions WAIT, CHECK and LOADBLK (30_encoding.md R82): what one turn of WAIT and CHECK does,
and a run of the statements LOADBLK expands to.
-/

namespace Sys2Proof

open Sys2Proof.Machine

/-! ### WAIT and CHECK -/

theorem field_statusWord_busy (s : State) : field (statusWord s) 0 0 = s.busy.toNat := by
  obtain ⟨hbusy, -⟩ := statusAndConfigFields s
  exact hbusy

theorem field_statusWord_err (s : State) : field (statusWord s) 7 4 = s.err.code := by
  obtain ⟨-, -, -, herr, -⟩ := statusAndConfigFields s
  exact herr

theorem Machine.ErrCode.code_eq_zero_iff (c : ErrCode) : c.code = 0 ↔ c = .ok := by
  cases c <;> decide

section

variable {s s0 : State}

theorem HostPerforms.observed_eq {st : HostStmt} (h : HostPerforms s st s0) :
    s0.observed = s.observed := by
  obtain ⟨rest, -, rfl, -⟩ := h.state
  rfl

theorem HostPerforms.readStatus_eq {st : HostStmt} (h : HostPerforms s st s0) :
    readStatus s0 = { s0 with observed := (.s, statusWord s) :: s.observed } := by
  obtain ⟨rest, -, rfl, -⟩ := h.state
  rfl

/-- The turn used up, with the statement kept. -/
theorem HostPerforms.readStatus_turnUsed {st : HostStmt} (h : HostPerforms s st s0) :
    readStatus (turnUsed s) =
      { s0 with program := s.program, observed := (.s, statusWord s) :: s.observed } := by
  obtain ⟨rest, -, rfl, -⟩ := h.state
  rfl

theorem step_wait_busy (h : HostPerforms s .wait s0) (hb : s.busy = true) :
    step s = .next (readStatus (turnUsed s)) := by
  rw [step_wait h, field_statusWord_busy, hb, if_pos (by decide)]

theorem step_wait_idle (h : HostPerforms s .wait s0) (hb : s.busy = false) :
    step s = .next (readStatus s0) := by
  rw [step_wait h, field_statusWord_busy, hb, if_neg (by decide)]

theorem step_check_err (h : HostPerforms s .check s0) (he : s.err ≠ .ok) :
    step s = .next (gotoError (readStatus (turnUsed s))) := by
  rw [step_check h, field_statusWord_err, if_pos (mt s.err.code_eq_zero_iff.1 he)]

theorem step_check_ok (h : HostPerforms s .check s0) (he : s.err = .ok) :
    step s = .next (readStatus s0) := by
  rw [step_check h, field_statusWord_err, if_neg (not_not.2 (s.err.code_eq_zero_iff.2 he))]

end

/-- Settles O55: both read STATUS; BUSY decides whether WAIT stays, ERR whether CHECK leaves. -/
theorem waitAndCheck : Obligations.WaitAndCheck := by
  refine fun s s0 => ⟨fun h hb => ?_, fun h hb => ?_, fun h he => ?_, fun h he => ?_⟩
  · rw [step_wait_busy h hb, h.readStatus_turnUsed]
  · rw [step_wait_idle h hb, h.readStatus_eq]
  · rw [step_check_err h he, h.readStatus_turnUsed]; rfl
  · rw [step_check_ok h he, h.readStatus_eq]

/-! ### An idle machine reaches its host's next statement -/

/-- From an idle state with no reset to come, a run reaches the host's next statement with nothing changed
but the turns: the engine turns before it do nothing. -/
theorem runsTo_hostPerforms {s : State} {st : HostStmt} {rest : List HostStmt} (hb : s.busy = false)
    (hr : NoReset s) (hp : s.program = st :: rest) :
    ∃ n us ts, RunsTo n s { s with turns := us } ∧
      HostPerforms { s with turns := us } st { s with program := rest, turns := ts } ∧
      Turn.reset ∉ ts := by
  induction hus : s.turns generalizing s with
  | nil =>
    have ht := nextTurn_nil hus
    refine ⟨0, s.turns, [], .refl s, ⟨?_, rest, hp, ?_⟩, List.not_mem_nil⟩
    · rw [ht, hb]; rfl
    · rw [ht]
  | cons u us ih =>
    have ht := nextTurn_cons hus
    have hu : Turn.reset ∉ u :: us := hus ▸ hr
    have hrest : Turn.reset ∉ us := List.not_mem_of_not_mem_cons hu
    cases u with
    | reset => exact absurd List.mem_cons_self hu
    | host =>
      refine ⟨0, s.turns, us, .refl s, ⟨?_, rest, hp, ?_⟩, hrest⟩
      · rw [ht]
      · rw [ht]
    | engine =>
      have hstep : step s = .next { s with turns := us } := by
        rw [step_engine (by rw [ht]), engineStep_idle (by exact hb), turnUsed, ht]
      obtain ⟨n, us', ts, hrun, hperf, hts⟩ := ih (s := { s with turns := us }) hb hrest hp rfl
      exact ⟨n + 1, us', ts, .head hstep hrun, hperf, hts⟩

/-! ### LOADBLK -/

/-- The statements that write the words to the block buffer from word `k` on. -/
def blkWrites (ws : List Word) (k : Nat) : List HostStmt :=
  (ws.zipIdx k).map fun p => .wr 8 (0x100 + 8 * p.2) p.1

theorem blkWrites_cons (w : Word) (ws : List Word) (k : Fin 17) :
    blkWrites (w :: ws) k = wrStmt (.blk k) w :: blkWrites ws (k + 1) := rfl

theorem loadBlk_eq_blkWrites (bytes : List Byte) :
    loadBlk bytes = blkWrites (lanesFromBytes (zeroFill8 bytes)) 0 := rfl

/-- A host write of a block word from an idle state, under any schedule without a reset. -/
theorem runsTo_blkWrite {s : State} {k : Fin 17} {w : Word} {rest : List HostStmt}
    (hb : s.busy = false) (hr : NoReset s) (hp : s.program = wrStmt (.blk k) w :: rest) :
    ∃ n ts, RunsTo n s { s with program := rest, blk := s.blk.set k.val w k.isLt, turns := ts } ∧
      Turn.reset ∉ ts := by
  obtain ⟨n, us, ts, hrun, hperf, hts⟩ := runsTo_hostPerforms hb hr hp
  refine ⟨n + 1, ts, hrun.trans (.single ?_), hts⟩
  rw [step_wr_reg hperf, writeReg, writeBlk_idle (by exact hb)]

/-- A run of the writes of the words from word `k` on changes those words of the buffer, the program and
the turns. -/
theorem runsTo_blkWrites (ws : List Word) (k : Nat) {s : State} {rest : List HostStmt}
    (hk : k + ws.length ≤ 17) (hb : s.busy = false) (hr : NoReset s)
    (hp : s.program = blkWrites ws k ++ rest) :
    ∃ n B ts, RunsTo n s { s with program := rest, blk := B, turns := ts } ∧ Turn.reset ∉ ts ∧
      ∀ (j : Nat) (hj : j < 17),
        B[j] = if k ≤ j ∧ j < k + ws.length then ws.getD (j - k) 0 else s.blk[j] := by
  induction ws generalizing k s with
  | nil =>
    obtain rfl : s.program = rest := hp
    exact ⟨0, s.blk, s.turns, .refl s, hr, fun j _ => by rw [if_neg (by simp)]⟩
  | cons w ws ih =>
    rw [List.length_cons] at hk
    obtain ⟨m, us, hwrite, hus⟩ :=
      runsTo_blkWrite (k := ⟨k, by omega⟩) (rest := blkWrites ws (k + 1) ++ rest) hb hr hp
    obtain ⟨n, B, ts, hrun, hts, hB⟩ := ih (k + 1) (s := { s with
      program := blkWrites ws (k + 1) ++ rest, blk := s.blk.set k w (by omega), turns := us })
      (by omega) hb hus rfl
    refine ⟨m + n, B, ts, hwrite.trans hrun, hts, fun j hj => ?_⟩
    rw [hB j hj, Vector.getElem_set, List.length_cons]
    obtain hlt | rfl | hgt := lt_trichotomy j k
    · rw [if_neg (by omega), if_neg (by omega), if_neg (by omega)]
    · rw [if_neg (by omega), if_pos rfl, if_pos (by omega), Nat.sub_self, List.getD_cons_zero]
    · rw [if_neg (Nat.ne_of_lt hgt), show j - k = j - (k + 1) + 1 by omega, List.getD_cons_succ]
      exact if_congr (by omega) rfl rfl

/-! ### The bytes LOADBLK writes -/

theorem length_zeroFill8 (bytes : List Byte) :
    (zeroFill8 bytes).length = 8 * ((bytes.length + 7) / 8) := by
  rw [zeroFill8, List.length_append, List.length_replicate]
  omega

/-- Filling up with zeros changes no byte of the sequence read with default 0. -/
theorem getD_zeroFill8 (bytes : List Byte) (k : Nat) : (zeroFill8 bytes).getD k 0 = bytes.getD k 0 := by
  rw [zeroFill8]
  by_cases hk : k < bytes.length
  · exact List.getD_append _ _ _ _ hk
  · rw [List.getD_append_right _ _ _ _ (by omega), List.getD_eq_default bytes 0 (by omega)]
    simp

theorem blkByte_eq_byteOf (B : Block) {k : Nat} (hk : k / 8 < 17) :
    blkByte B k = byteOf B[k / 8] (k % 8) :=
  congrArg (byteOf · (k % 8)) (by simp [Vector.getD, hk])

theorem length_words_zeroFill8 (bytes : List Byte) :
    (lanesFromBytes (zeroFill8 bytes)).length = (bytes.length + 7) / 8 := by
  rw [length_lanesFromBytes, length_zeroFill8]
  omega

/-- Byte `k` of the words LOADBLK writes is message byte `k`, and 0 past the message. -/
theorem byteOf_words_zeroFill8 (bytes : List Byte) {k : Nat} (hk : k < 8 * ((bytes.length + 7) / 8)) :
    byteOf ((lanesFromBytes (zeroFill8 bytes)).getD (k / 8) 0) (k % 8) = bytes.getD k 0 := by
  obtain ⟨-, bytesOfWords⟩ := lanesAndBytesInverse
  have hlen := length_zeroFill8 bytes
  rw [bytesOfWords _ k (by omega) (by omega), getD_zeroFill8]

/-- Settles O52: LOADBLK is a row of block writes from word 0 on, whose words hold the message bytes and
the zeros after them. -/
theorem loadBlkFillsBuffer : Obligations.LoadBlkFillsBuffer := by
  intro s bytes rest hlen hb hr hp
  rw [loadBlk_eq_blkWrites] at hp
  have hwords := length_words_zeroFill8 bytes
  obtain ⟨n, B, ts, hrun, hts, hB⟩ := runsTo_blkWrites _ 0 (by omega) hb hr hp
  have hbyte : ∀ k, k < 8 * ((bytes.length + 7) / 8) → blkByte B k = bytes.getD k 0 := by
    intro k hk
    rw [blkByte_eq_byteOf B (by omega), hB, if_pos (by omega), Nat.sub_zero,
      byteOf_words_zeroFill8 bytes hk]
  refine ⟨n, _, hrun, rfl, hts, fun k hk => hbyte k (by omega), fun k hge hk => ?_,
    fun j hj => ?_, .refl _⟩
  · rw [hbyte k hk, List.getD_eq_default bytes 0 hge]
  · exact (hB j.val j.isLt).trans (if_neg (by omega))

end Sys2Proof
end

section
/-!
The permutation (41_permutation.md R100 to R109): the four step mappings and the round, lane by lane.
-/

namespace Sys2Proof

open Sys2Proof.Machine

/-! ### Theta -/

theorem Machine.getElem_thetaC (A : Lanes) (x : Fin 5) :
    (thetaC A)[x] = laneAt A x 0 ^^^ laneAt A x 1 ^^^ laneAt A x 2 ^^^ laneAt A x 3 ^^^ laneAt A x 4 :=
  Vector.getElem_ofFn x.isLt

theorem Machine.getElem_thetaD (C : Vector Word 5) (x : Fin 5) :
    (thetaD C)[x] = C[x + 4] ^^^ rotl64 C[x + 1] 1 :=
  Vector.getElem_ofFn x.isLt

/-- Settles O29: the C and D of the statement are the vectors theta computes from its input. -/
theorem thetaLanes : Obligations.ThetaLanes := by
  intro A C D hC hD x y
  rw [theta, laneAt_gridOf, getElem_thetaD, getElem_thetaC, getElem_thetaC, hD, hC, hC]

/-! ### Rho and pi -/

/-- Pi's destinations `(y, 2x + 3y)` and its sources `(u + 3v, u)` undo each other modulo 5. -/
theorem Machine.pi_source_of_dest (x y : Fin 5) : y + 3 * (2 * x + 3 * y) = x := by
  decide +revert

theorem Machine.pi_dest_of_source (u v : Fin 5) : 2 * (u + 3 * v) + 3 * u = v := by
  decide +revert

/-- The index pi moves lane `i` to (R104, R105). -/
def piDest (i : Fin 25) : Fin 25 := laneIndex (laneY i) (2 * laneX i + 3 * laneY i)

/-- The index pi takes lane `j` of its result from. -/
def piSource (j : Fin 25) : Fin 25 := laneIndex (laneX j + 3 * laneY j) (laneX j)

theorem piSource_piDest (i : Fin 25) : piSource (piDest i) = i := by
  simp only [piSource, piDest, laneX_laneIndex, laneY_laneIndex, pi_source_of_dest,
    laneIndex_laneX_laneY]

theorem Machine.laneAt_laneX_laneY (A : Lanes) (i : Fin 25) : laneAt A (laneX i) (laneY i) = A[i] := by
  simp only [laneAt, laneIndex_laneX_laneY]

theorem Machine.getElem_pi (R : Lanes) (j : Fin 25) : (pi R)[j] = R[piSource j] := by
  rw [← laneAt_laneX_laneY, pi, laneAt_gridOf]; rfl

theorem Machine.getElem_pi_piDest (R : Lanes) (i : Fin 25) : (pi R)[piDest i] = R[i] := by
  simp only [getElem_pi, piSource_piDest]

/-- Lanes taken from `B` at the indexes `σ` are the list read off `B` by the table of `σ`. -/
theorem toList_eq_map_table {A B : Lanes} {σ : Fin 25 → Fin 25} (h : ∀ i, A[i] = B[σ i]) :
    A.toList = ((List.finRange 25).map fun i => (σ i).val).map fun j => B.getD j 0 := by
  refine List.ext_getElem (by simp) fun i hi _ => ?_
  have hi : i < 25 := by simpa using hi
  simpa [Vector.getD] using h ⟨i, hi⟩

/-- Settles O30: pi's destinations, read at their source. -/
theorem rhoPiLanes : Obligations.RhoPiLanes := by
  refine ⟨fun A x y => ?_, Function.bijective_iff_has_inverse.2
    ⟨fun j => (laneX j + 3 * laneY j, laneX j), fun p => ?_, fun j => ?_⟩⟩
  · rw [rhoPi, laneAt_gridOf, pi_source_of_dest, rotationAt]
  · simp only [laneX_laneIndex, laneY_laneIndex, pi_source_of_dest]
  · simp only [pi_dest_of_source, laneIndex_laneX_laneY]

theorem Machine.pi_rho (A : Lanes) : pi (rho A) = rhoPi A :=
  lanes_ext fun x y => by rw [pi, rho, rhoPi, laneAt_gridOf, laneAt_gridOf, laneAt_gridOf]

/-- Settles O31: the rule's two tables list pi's destinations and its sources. -/
theorem rhoThenPi : Obligations.RhoThenPi := by
  have dests : (List.finRange 25).map (fun i => (piDest i).val) =
      [0, 10, 20, 5, 15, 16, 1, 11, 21, 6, 7, 17, 2, 12, 22, 23, 8, 18, 3, 13, 14, 24, 9, 19, 4] := by
    decide
  have sources : (List.finRange 25).map (fun j => (piSource j).val) =
      [0, 6, 12, 18, 24, 3, 9, 10, 16, 22, 1, 7, 13, 19, 20, 4, 5, 11, 17, 23, 2, 8, 14, 15, 21] := by
    decide
  refine ⟨pi_rho, fun R => ?_, fun A x y => by rw [rho, laneAt_gridOf, rotationAt], fun R => ?_⟩
  · rw [← dests]
    exact toList_eq_map_table fun i => (getElem_pi_piDest R i).symm
  · rw [← sources]
    exact toList_eq_map_table (getElem_pi R)

/-! ### Chi, iota and the round -/

theorem Machine.getElem_iota (A : Lanes) (r : Fin 24) (i : Fin 25) :
    (iota r A)[i] = if i = 0 then A[i] ^^^ roundConstants[r] else A[i] := by
  by_cases hi : i = 0
  · subst hi; simp [iota]
  · simp [iota, hi, eq_comm]

/-- Settles O32: each mapping's definition, read at a lane. -/
theorem chiAndIotaLanes : Obligations.ChiAndIotaLanes :=
  ⟨fun B x y => by rw [chi, laneAt_gridOf], getElem_iota, fun A r => by rw [rnd]⟩

end Sys2Proof
end

section
/-!
The engine's rounds (41_permutation.md R130, R131; 70_reset_and_hazards.md R250): how many an
engine step leaves, how many an accepted command starts, and what all of them together do.
-/

namespace Sys2Proof

open Sys2Proof.Machine

/-! ### The engine step -/

/-- Settles O33: the three cases of an engine step, taken on the engine's turn. -/
theorem engineStepRule : Obligations.EngineStepRule := by
  rintro s s0 ⟨ht, rfl⟩
  rw [step_engine ht]
  refine ⟨fun hb => ?_, fun hb hr => ?_, fun hb hr hlt => ?_⟩
  · rw [engineStep_idle (by exact hb)]
  · rw [engineStep_last (by exact hb) (by exact hr)]; rfl
  · rw [engineStep_more (by exact hb) (by exact hr),
      show (⟨s.rcnt.val + 1, hlt⟩ : Fin 24) = nextRound s.rcnt from Fin.ext (nextRound_val hlt).symm]
    rfl

/-- The engine's step reads and writes nothing of the host and its schedule. -/
theorem engineStep_withSchedule (s : State) (p : List HostStmt) (o : List (HostVar × Word))
    (ts : List Turn) :
    engineStep { s with program := p, observed := o, turns := ts } =
      { engineStep s with program := p, observed := o, turns := ts } := by
  obtain ⟨hb, e⟩ | ⟨hb, hr, e⟩ | ⟨hb, hr, e⟩ := engineStep_cases s
  · rw [e, engineStep_idle (by exact hb)]
  · rw [e, engineStep_last (by exact hb) (by exact hr)]; rfl
  · rw [e, engineStep_more (by exact hb) (by exact hr)]; rfl

theorem iterate_engineStep_withSchedule (k : Nat) (s : State) (p : List HostStmt)
    (o : List (HostVar × Word)) (ts : List Turn) :
    engineStep^[k] { s with program := p, observed := o, turns := ts } =
      { engineStep^[k] s with program := p, observed := o, turns := ts } := by
  induction k generalizing s with
  | zero => rfl
  | succ k ih => rw [Function.iterate_succ_apply, engineStep_withSchedule, ih]; rfl

/-! ### The engine steps to come -/

/-- The engine is idle again after exactly `k` engine steps, and BUSY until then (R131). -/
inductive RoundsLeft : Nat → State → Prop where
  | idle {s : State} : s.busy = false → RoundsLeft 0 s
  | busy {s : State} {k : Nat} : s.busy = true → s.rcnt.val + k = s.rend.val → RoundsLeft (k + 1) s

theorem RoundsLeft.idle_of_zero {s : State} (h : RoundsLeft 0 s) : s.busy = false := by
  cases h with
  | idle hb => exact hb

theorem RoundsLeft.busy_of_succ {s : State} {k : Nat} (h : RoundsLeft (k + 1) s) : s.busy = true := by
  cases h with
  | busy hb _ => exact hb

theorem RoundsLeft.of_sameEngine {s t : State} {k : Nat} (h : RoundsLeft k s) (hs : SameEngine s t) :
    RoundsLeft k t := by
  obtain ⟨-, -, -, -, busy, -, -, rcnt, -, rend⟩ := hs
  cases h with
  | idle hb => exact .idle (busy.trans hb)
  | busy hb hk => exact .busy (busy.trans hb) (by rw [rcnt, rend, hk])

theorem RoundsLeft.after_step {s : State} {k : Nat} (h : RoundsLeft (k + 1) s) :
    RoundsLeft k (engineStep s) := by
  cases h with
  | busy hb hk =>
    cases k with
    | zero =>
      rw [engineStep_last hb (Fin.ext hk)]
      exact .idle rfl
    | succ k =>
      rw [engineStep_more hb (fun e => by rw [e] at hk; omega)]
      refine .busy (by simpa using hb) ?_
      rw [advanceRound_rcnt, applyRound_rcnt, nextRound_val (by omega), advanceRound_rend,
        applyRound_rend]
      omega

theorem RoundsLeft.after_steps (k : Nat) {m : Nat} {s : State} (h : RoundsLeft (k + m) s) :
    RoundsLeft m (engineStep^[k] s) := by
  induction k generalizing s with
  | zero => exact Nat.zero_add m ▸ h
  | succ k ih =>
    rw [Nat.succ_add] at h
    exact ih h.after_step

/-- In a legal state no more than the 24 rounds of a command are left (R27, R28). -/
theorem Inv.roundsLeft {s : State} (h : Inv s) : ∃ k ≤ 24, RoundsLeft k s := by
  cases hb : s.busy with
  | false => exact ⟨0, by omega, .idle hb⟩
  | true =>
    have order : s.rcnt.val ≤ s.rend.val := h.roundOrder
    exact ⟨s.rend.val - s.rcnt.val + 1, by omega, .busy hb (by omega)⟩

/-- An accepted command starts the rounds of the table of R250. -/
theorem Machine.Accepted.roundsLeft {i : Instr} {s t : State} (a : Accepted i s t)
    (hb : s.busy = false) : RoundsLeft (engineSteps i) t := by
  cases a with
  | nop | init => exact .idle hb
  | absorb | final | permute | round => exact .busy rfl rfl

theorem Machine.Accepted.turns_eq {i : Instr} {s t : State} (a : Accepted i s t) :
    t.turns = s.turns := by
  cases a <;> rfl

theorem Machine.Accepted.blk_eq {i : Instr} {s t : State} (a : Accepted i s t) :
    t.blk = s.blk := by
  cases a <;> rfl

/-! ### All rounds of a command -/

theorem keccakF_eq_foldl (A : Lanes) : keccakF A = (List.finRange 24).foldl rnd A := by
  rw [keccakF]

/-- The 24 engine steps of ABSORB, FINAL and PERMUTE apply Keccak-f (R109, R131). -/
theorem iterate_engineStep_full (p : Pend) (s : State) :
    engineStep^[24] (startRounds p 0 23 s) =
      finishRounds { s with
        lanes := keccakF s.lanes, pend := p, rcnt := 23, rend := 23, busy := true } := by
  rw [iterate_engineStep_rounds 23 _ rfl rfl, keccakF_eq_foldl]
  rfl

/-- The engine step of ROUND applies its round (R121, R131). -/
theorem engineStep_round (r : Fin 24) (s : State) :
    engineStep (startRounds .round r r s) =
      finishRounds { s with
        lanes := rnd s.lanes r, pend := .round, rcnt := r, rend := r, busy := true } :=
  engineStep_last rfl rfl

end Sys2Proof
end

section
/-!
The commands PERMUTE and ROUND (41_permutation.md R120, R121; 30_encoding.md R73, R74): their words, their
rejections and the states their rounds end in.
-/

namespace Sys2Proof

open Sys2Proof.Machine

/-! ### The words of PERMUTE and ROUND -/

theorem decode_eq_ok_iff (w : Word) (i : Instr) : decode w = .ok i ↔ i.wf = true ∧ encode i = w := by
  refine ⟨encodeOfDecode w i, fun ⟨hwf, e⟩ => ?_⟩
  rw [← e, decodeOfEncode i hwf]

/-- A word with the opcode of a row but outside that row is illegal (R74). -/
theorem writeReg_cmd_outside_row {s : State} {w : Word} {row : OpcodeRow} (hb : s.busy = false)
    (hrow : row ∈ opcodeTable) (hop : field w 3 0 = field row.pattern 3 0)
    (hsel : row.selects w = false) :
    writeReg .cmd w s = .next { s with err := .illegalCommand } := by
  have outside : ∀ r ∈ opcodeTable, r.selects w = false := by
    refine fun r hr => Bool.eq_false_iff.2 fun h => ?_
    obtain rfl := row_eq_of_opcode_eq r hr row hrow ((opcode_of_selects hr h).symm.trans hop)
    cases h.symm.trans hsel
  obtain ⟨e, hd⟩ := (selects_eq_false_iff w).1 outside
  rw [writeReg_cmd_of_illegal hd, if_neg (by simp [hb])]
  rfl

/-- The row of ROUND in the opcode map (R73). -/
def roundRow : OpcodeRow := ⟨"ROUND", 0x0000000000000005#64, 0xFFFFFFFFFFFF00FF#64⟩

theorem decode_eq_round_iff (w : Word) (r : Nat) :
    decode w = .ok (.round r) ↔ roundRow.selects w = true ∧ r = field w 15 8 := by
  constructor
  · intro h
    obtain ⟨hwf, rfl⟩ := encodeOfDecode w _ h
    obtain ⟨-, -, -, hoperand⟩ := fields_byteOperandWord (op := 5) (by decide) (of_decide_eq_true hwf)
    obtain ⟨row, hrow, hsel⟩ := encode_selects_row hwf
    obtain rfl : roundRow = row := Option.some.inj hrow
    exact ⟨hsel, hoperand.symm⟩
  · rintro ⟨hsel, rfl⟩
    obtain ⟨-, -, -, -, -, toRound⟩ := decode_of_fields (w := w)
    have hf := fun hi lo => field_of_selects (hi := hi) (lo := lo) hsel
    exact toRound (hf 3 0 (by decide)) (hf 7 4 (by decide)) (hf 63 16 (by decide))

/-- Settles O12: one word, no condition on the phase, and the 24 rounds of Keccak-f. -/
theorem permuteCommand : Obligations.PermuteCommand := by
  refine ⟨fun w => ?_, fun s w hb hop hw => ?_, fun s hb => exec_busy hb _,
    fun s hb => ⟨exec_permute_idle hb, iterate_engineStep_full .permute (accept s)⟩⟩
  · rw [decode_eq_ok_iff, eq_comm (a := w)]
    exact and_iff_right rfl
  · refine writeReg_cmd_outside_row hb
      (row := ⟨"PERMUTE", 0x0000000000000004#64, 0xFFFFFFFFFFFFFFFF#64⟩) (by decide) hop ?_
    exact beq_eq_false_iff_ne.2 fun h => hw ((BitVec.and_allOnes (x := w)).symm.trans h)

/-- Settles O13: the row of ROUND with its operand, the bound on the index, and one round. -/
theorem roundCommand : Obligations.RoundCommand := by
  refine ⟨fun w r => ?_, fun s w hb hop hw => ?_, fun s r hb => exec_busy hb _,
    fun s r => exec_round_badRound,
    fun s r hb => ⟨exec_round_index hb r, engineStep_round r (accept s)⟩⟩
  · rw [decode_eq_round_iff, OpcodeRow.selects, beq_iff_eq]; rfl
  · exact writeReg_cmd_outside_row hb (row := roundRow) (by decide) hop (beq_eq_false_iff_ne.2 hw)

end Sys2Proof
end

section
/-!
Runs of the machine until its engine is idle: on the default schedule, under any schedule, and of a host
that starts a command and waits for it (41_permutation.md R131, R132; 70_reset_and_hazards.md R250).
-/

namespace Sys2Proof

open Sys2Proof.Machine

/-! ### The default schedule -/

/-- With no turn fixed the engine takes the steps a command has left, one after another. -/
theorem RoundsLeft.runsTo_default (k : Nat) {m : Nat} {s : State} (h : RoundsLeft (k + m) s)
    (ht : s.turns = []) : RunsTo k s (engineStep^[k] s) := by
  induction k generalizing s with
  | zero => exact .refl s
  | succ k ih =>
    rw [Nat.succ_add] at h
    exact .head (step_default_busy ht h.busy_of_succ) (ih h.after_step (by simpa using ht))

/-- Settles O34: an accepted command has its engine steps left, and each of them is taken. -/
theorem commandTakesExactSteps : Obligations.CommandTakesExactSteps := by
  intro i s t hb ht e
  obtain ⟨hbusy, -⟩ | ⟨-, c, hc, -, rfl⟩ | ⟨-, ha⟩ := exec_cases e
  · cases hb.symm.trans hbusy
  · exact ⟨fun herr => absurd herr hc, fun _ => hb⟩
  · have hleft := ha.roundsLeft hb
    have hturns : t.turns = [] := ha.turns_eq.trans ht
    refine ⟨fun _ => ⟨fun k hk => ?_, ?_⟩, fun herr => absurd ha.err_ok herr⟩
    · obtain ⟨m, hm⟩ : ∃ m, engineSteps i = k + (m + 1) := ⟨engineSteps i - (k + 1), by omega⟩
      rw [hm] at hleft
      exact ⟨_, hleft.runsTo_default k hturns, (hleft.after_steps k).busy_of_succ⟩
    · exact ⟨_, hleft.runsTo_default (m := 0) _ hturns, (hleft.after_steps (m := 0) _).idle_of_zero⟩

/-! ### Any schedule -/

theorem WriteEffect.turns_eq {r : Reg} {v : Word} {s t : State} (w : WriteEffect r v s t) :
    t.turns = s.turns := by
  cases w with
  | ignored | busy | rejected | lane | blk => rfl
  | command _ _ ha => exact ha.turns_eq

theorem HostPerforms.turns_eq {s s0 : State} {st : HostStmt} (h : HostPerforms s st s0) :
    s0.turns = (nextTurn s).2 := by
  obtain ⟨-, rest, -, rfl⟩ := h
  rfl

theorem Machine.afterRead_turns (r : Reg) (s : State) : (afterRead r s).turns = s.turns := by
  cases r with
  | lane i =>
    cases hb : s.busy with
    | true => rw [afterRead_lane_busy hb, countDraw_turns]
    | false => rw [afterRead_lane_idle hb]
  | blk | cmd | status | config => rfl

/-- A step uses up its own turn and changes no turn after it. -/
theorem step_turns {s t : State} (e : step s = .next t) : t.turns = (nextTurn s).2 := by
  obtain ⟨-, rfl⟩ | ⟨-, rfl⟩ | ⟨-, -, rfl⟩ | ⟨off, r, v, s0, hp, -, hw⟩ |
    ⟨off, r, var, s0, hp, -, rfl⟩ | ⟨s0, hp, ⟨-, rfl⟩ | ⟨-, rfl⟩⟩ |
    ⟨s0, hp, ⟨-, rfl⟩ | ⟨-, rfl⟩⟩ := step_cases e
  · exact engineStep_turns _
  · rfl
  · rfl
  · exact (writeReg_effect hw).turns_eq.trans hp.turns_eq
  · exact (afterRead_turns r s0).trans hp.turns_eq
  · rfl
  · exact hp.turns_eq
  · rfl
  · exact hp.turns_eq

/-- Settles O35: by induction on the turns to come; once they are used up the engine takes the steps it
has left. -/
theorem engineComesToIdle : Obligations.EngineComesToIdle := by
  intro s hinv
  induction hts : s.turns generalizing s with
  | nil =>
    obtain ⟨k, hk, hleft⟩ := hinv.roundsLeft
    exact ⟨k, by simpa using hk, .inl ⟨_, hleft.runsTo_default (m := 0) k hts,
      (hleft.after_steps (m := 0) k).idle_of_zero⟩⟩
  | cons u us ih =>
    obtain ⟨t, ht⟩ | ⟨off, hillegal⟩ := step_next_or_illegal s
    · have hus : t.turns = us := by rw [step_turns ht, nextTurn_cons hts]
      obtain ⟨n, hn, hend⟩ := ih t (stepKeepsInv s t hinv ht) hus
      refine ⟨1 + n, by rw [List.length_cons]; omega, hend.imp ?_ ?_⟩
      · exact fun ⟨t', hrun, hidle⟩ => ⟨t', (RunsTo.single ht).trans hrun, hidle⟩
      · exact fun ⟨off, hfault⟩ => ⟨off, (run_add 1 n s t (.single ht)).trans hfault⟩
    · refine ⟨1, by omega, .inr ⟨off, ?_⟩⟩
      simp only [Host.Core.run, core, hillegal.step_fault]

/-! ### A host that waits -/

/-- A host at WAIT polls STATUS while BUSY = 1 until the engine's next turn, under any schedule without a
reset. -/
theorem runsTo_engineStep_of_wait {s : State} {rest : List HostStmt} (hb : s.busy = true)
    (hr : NoReset s) (hp : s.program = .wait :: rest) :
    ∃ n obs ts, RunsTo n s { engineStep s with
      program := .wait :: rest, observed := obs, turns := ts } ∧ Turn.reset ∉ ts := by
  induction hus : s.turns generalizing s with
  | nil =>
    refine ⟨1, s.observed, [], .single ?_, List.not_mem_nil⟩
    rw [step_default_busy hus hb, ← engineStep_withSchedule, ← hp, ← hus]
  | cons u us ih =>
    have ht := nextTurn_cons hus
    have hu : Turn.reset ∉ u :: us := hus ▸ hr
    have hrest : Turn.reset ∉ us := List.not_mem_of_not_mem_cons hu
    cases u with
    | reset => exact absurd List.mem_cons_self hu
    | engine =>
      refine ⟨1, s.observed, us, .single ?_, hrest⟩
      rw [step_engine (by rw [ht]), ← engineStep_withSchedule, ← hp, turnUsed, ht]
    | host =>
      have hperf : HostPerforms s .wait { turnUsed s with program := rest } :=
        ⟨by rw [ht], rest, hp, rfl⟩
      have hstep : step s = .next { s with
          observed := (.s, statusWord s) :: s.observed, turns := us } := by
        rw [step_wait_busy hperf hb, turnUsed, ht]; rfl
      obtain ⟨n, obs, ts, hrun, hts⟩ := ih (s := { s with
        observed := (.s, statusWord s) :: s.observed, turns := us }) hb hrest hp rfl
      refine ⟨n + 1, obs, ts, .head hstep ?_, hts⟩
      rwa [← engineStep_withSchedule] at hrun ⊢

/-- A host at WAIT goes on once the engine has taken all the steps it has left, under any schedule without
a reset. -/
theorem RoundsLeft.runsTo_of_wait {s : State} {k : Nat} {rest : List HostStmt} (h : RoundsLeft k s)
    (hr : NoReset s) (hp : s.program = .wait :: rest) :
    ∃ n obs ts, RunsTo n s { engineStep^[k] s with
      program := rest, observed := obs, turns := ts } ∧ Turn.reset ∉ ts := by
  induction k generalizing s with
  | zero =>
    obtain ⟨n, us, ts, hrun, hperf, hts⟩ := runsTo_hostPerforms h.idle_of_zero hr hp
    exact ⟨n + 1, _, ts, hrun.trans (.single (step_wait_idle hperf h.idle_of_zero)), hts⟩
  | succ k ih =>
    obtain ⟨m, obs, us, hstep, hus⟩ := runsTo_engineStep_of_wait h.busy_of_succ hr hp
    obtain ⟨n, obs', ts, hrun, hts⟩ := ih (s := { engineStep s with
      program := .wait :: rest, observed := obs, turns := us })
      (h.after_step.of_sameEngine (.refl _)) hus rfl
    rw [iterate_engineStep_withSchedule] at hrun
    exact ⟨m + n, obs', ts, hstep.trans hrun, hts⟩

/-! ### A command followed by WAIT -/

/-- What an accepted command does at its CMD write does not depend on the host and its schedule. -/
theorem Machine.Accepted.exec_withSchedule {i : Instr} {s u : State} (a : Accepted i s u)
    (hb : s.busy = false) (p : List HostStmt) (ts : List Turn) :
    exec i { s with program := p, turns := ts } = .next { u with program := p, turns := ts } := by
  cases a with
  | nop => exact exec_nop_idle hb
  | init _ n hn => exact exec_init_supported hb hn
  | absorb _ hp => exact exec_absorb_absorbing hb hp
  | final _ len hp hl => exact exec_final_absorbing hb hp hl
  | permute => exact exec_permute_idle hb
  | round _ r => exact exec_round_index (by exact hb) r

/-- SPH after the rounds of a command accepted with SPH `p` (R131, R164). -/
def phaseAfterRounds : Instr → Phase → Phase
  | .final _, _ => .squeezing
  | _, p => p

theorem atomicLanes_round (r : Fin 24) (s : State) : atomicLanes (.round r.val) s = rnd s.lanes r :=
  dif_pos r.isLt

/-- All rounds of an accepted command together are its atomic function on the lanes; they leave BLK, CONFIG
and ERR as they are (R132). -/
theorem Machine.Accepted.after_rounds {i : Instr} {s u : State} (a : Accepted i s u)
    (hb : s.busy = false) : ∃ r p, engineStep^[engineSteps i] u = { u with
      lanes := atomicLanes i s, busy := false, rcnt := r, pend := p,
      sph := phaseAfterRounds i u.sph } := by
  cases a with
  | nop => exact ⟨s.rcnt, s.pend, by rw [← hb]; rfl⟩
  | init => exact ⟨s.rcnt, s.pend, by rw [← hb]; rfl⟩
  | absorb | final | permute => exact ⟨23, .none, iterate_engineStep_full _ _⟩
  | round _ r =>
    rw [atomicLanes_round]
    exact ⟨r, .none, engineStep_round r (accept s)⟩

/-- Settles O37: the CMD write starts the rounds, and WAIT is passed when all of them are done. -/
theorem commandThenWaitIsAtomic : Obligations.CommandThenWaitIsAtomic := by
  intro i s u rest hwf hb hr hp he herr
  have ha : Accepted i s u := by
    obtain ⟨hbusy, -⟩ | ⟨-, c, hc, -, rfl⟩ | ⟨-, ha⟩ := exec_cases he
    · cases hb.symm.trans hbusy
    · exact absurd herr hc
    · exact ha
  obtain ⟨m, us, ts, hreach, hperf, hts⟩ := runsTo_hostPerforms hb hr hp
  have hwrite := (step_wr_cmd hperf (decodeOfEncode i hwf)).trans (ha.exec_withSchedule hb _ ts)
  have hleft : RoundsLeft (engineSteps i) { u with program := .wait :: rest, turns := ts } :=
    (ha.roundsLeft hb).of_sameEngine (.refl u)
  obtain ⟨n, obs, ts', hwait, hts'⟩ := hleft.runsTo_of_wait hts rfl
  obtain ⟨r, p, hrounds⟩ := ha.after_rounds hb
  refine ⟨m + 1 + n, _, (hreach.trans (.single hwrite)).trans hwait, rfl, hts', ?_⟩
  rw [iterate_engineStep_withSchedule (o := u.observed), hrounds]
  refine ⟨rfl, herr, rfl, ha.blk_eq, rfl, rfl, ?_, fun hi => ?_⟩
  · rintro ⟨len, rfl⟩; rfl
  · cases i with
    | final len => exact absurd rfl (hi len)
    | nop | init | absorb | permute | round => rfl

/-! ### Twenty-four ROUND commands -/

theorem runsTo_round_wait {s : State} {r : Fin 24} {rest : List HostStmt} (hb : s.busy = false)
    (hr : NoReset s) (hp : s.program = cmdStmt (.round r.val) :: .wait :: rest) :
    ∃ n t, RunsTo n s t ∧ t.program = rest ∧ NoReset t ∧ t.busy = false ∧ t.err = .ok ∧
      t.lanes = rnd s.lanes r := by
  have hwf : (Instr.round r.val).wf = true := decide_eq_true (by omega)
  obtain ⟨n, t, hrun, hprog, hnr, hbusy, herr, hlanes, -⟩ :=
    commandThenWaitIsAtomic (.round r.val) s _ rest hwf hb hr hp (exec_round_index hb r) rfl
  exact ⟨n, t, hrun, hprog, hnr, hbusy, herr, hlanes.trans (atomicLanes_round r s)⟩

/-- ROUND commands, each followed by WAIT, apply their rounds in order. -/
theorem runsTo_rounds (rs : List (Fin 24)) {s : State} (hb : s.busy = false) (hr : NoReset s)
    (hp : s.program = rs.flatMap fun r => [cmdStmt (.round r.val), .wait]) :
    ∃ n t, RunsTo n s t ∧ t.program = [] ∧ t.busy = false ∧ t.lanes = rs.foldl rnd s.lanes ∧
      (rs ≠ [] ∨ s.err = .ok → t.err = .ok) := by
  induction rs generalizing s with
  | nil => exact ⟨0, s, .refl s, hp, hb, rfl, fun h => h.resolve_left (absurd rfl)⟩
  | cons r rs ih =>
    obtain ⟨m, s', hround, hprog, hnr, hbusy, herr, hlanes⟩ := runsTo_round_wait hb hr hp
    obtain ⟨n, t, hrun, hend, hidle, hfold, hok⟩ := ih hbusy hnr hprog
    exact ⟨m + n, t, hround.trans hrun, hend, hidle, by rw [hfold, hlanes, List.foldl_cons],
      fun _ => hok (.inr herr)⟩

/-- Settles O36: the rounds the 24 commands apply are those of Keccak-f, in its order. -/
theorem roundsComposeToKeccakF : Obligations.RoundsComposeToKeccakF := by
  intro s hb hr hp
  obtain ⟨n, t, hrun, hend, hidle, hlanes, hok⟩ := runsTo_rounds _ hb hr hp
  exact ⟨n, t, hrun, hend, hidle, hlanes.trans (keccakF_eq_foldl s.lanes).symm,
    hok (.inl (by decide))⟩

end Sys2Proof
end

section
/-!
The padding module (42_padding.md R140 to R145): the padded message by its length and its bytes, the padded
final block of the hardware, and the block bytes ABSORB and FINAL leave unread.
-/

namespace Sys2Proof

open Sys2Proof.Machine

/-! ### Lists by their bytes -/

theorem bytes_ext {a b : List Byte} (hlen : a.length = b.length)
    (h : ∀ k, k < a.length → a.getD k 0 = b.getD k 0) : a = b :=
  List.ext_getElem hlen fun k ha hb => by
    rw [← List.getD_eq_getElem a 0 ha, ← List.getD_eq_getElem b 0 hb, h k ha]

/-! ### The padded message -/

section

variable {r : Nat} (x : List Byte) (hr : 1 ≤ r)
include hr

/-- What pad adds and what the message leaves in its last block make up one block. -/
theorem length_pad_add_mod : (pad x r).length + x.length % r = x.length + r := by
  have hdiv := Nat.div_add_mod x.length r
  rw [length_pad x r hr, Nat.mul_succ]
  omega

theorem length_lt_length_pad : x.length < (pad x r).length := by
  have hlen := length_pad_add_mod x hr
  have hmod := Nat.mod_lt x.length hr
  omega

/-- Byte `k` of the padded message, its last position said by its length. -/
theorem getD_pad_length (k : Nat) :
    (pad x r).getD k 0 =
      (if k < x.length then x.getD k 0 else if k = x.length then 0x01#8 else 0#8) ^^^
        (if k = (pad x r).length - 1 then 0x80#8 else 0#8) := by
  rw [getD_pad x r hr k, length_pad x r hr]

theorem getD_pad_message {k : Nat} (hk : k < x.length) : (pad x r).getD k 0 = x.getD k 0 := by
  have hlt := length_lt_length_pad x hr
  rw [getD_pad_length x hr, if_pos hk, if_neg (by omega)]
  exact BitVec.xor_zero

theorem take_pad : (pad x r).take x.length = x := by
  have hlt := length_lt_length_pad x hr
  have hlen : ((pad x r).take x.length).length = x.length := by rw [List.length_take]; omega
  refine bytes_ext hlen fun k hk => ?_
  rw [List.getD_eq_getElem _ _ hk, List.getElem_take, ← List.getD_eq_getElem _ 0,
    getD_pad_message x hr (by omega)]

end

/-- Settles O47: the message comes first because no padding byte falls in it, and the rest follows from
the padded length. -/
theorem padInvariants : Obligations.PadInvariants := by
  intro x r hr
  have hlen := length_pad_add_mod x hr
  refine ⟨?_, length_lt_length_pad x hr, length_pad x r hr, take_pad x hr, by omega, fun _ => by omega⟩
  rw [length_pad x r hr]
  exact Nat.mul_mod_right r _

/-- Settles O48: the byte after the message is the last one exactly when one byte of the block is left. -/
theorem padBytesCombine : Obligations.PadBytesCombine := by
  intro x r hr
  have hlen := length_pad_add_mod x hr
  have hmod := Nat.mod_lt x.length hr
  refine ⟨by omega, fun hone => ?_, fun hmore => ⟨?_, ?_⟩, fun k hgt hlast => ?_⟩ <;>
    rw [getD_pad_length x hr]
  · rw [if_neg (Nat.lt_irrefl _), if_pos rfl, if_pos (by omega)]; rfl
  · rw [if_neg (Nat.lt_irrefl _), if_pos rfl, if_neg (by omega)]; rfl
  · rw [if_neg (by omega), if_neg (by omega), if_pos rfl]; rfl
  · rw [if_neg (by omega), if_neg (by omega), if_neg (by omega)]; rfl

/-! ### The padded final block -/

/-- Settles O49: the words of the block are read back as the bytes they were made of. -/
theorem padBlockBytes : Obligations.PadBlockBytes := by
  intro blk len R _ h8
  obtain ⟨-, bytesOfWords⟩ := lanesAndBytesInverse
  have hlen := length_padBytes blk len R
  refine ⟨?_, fun k hk => ?_⟩
  · rw [padBlock, length_lanesFromBytes, hlen]
  · rw [padBlock, bytesOfWords _ k (hlen.symm ▸ h8) (hlen.symm ▸ hk), getD_padBytes _ _ _ _ hk]

/-- Byte `j` of the last padded block is byte `j` the padding module builds from the message bytes left
over. -/
theorem getD_pad_last_block {m : List Byte} {R : Nat} {blk : Block} (hR : 1 ≤ R)
    (htail : ∀ k, k < m.length % R → blkByte blk k = m.getD (m.length / R * R + k) 0)
    {j : Nat} (hj : j < R) :
    (pad m R).getD (m.length / R * R + j) 0 = (padBytes blk (m.length % R) R).getD j 0 := by
  have hdiv := Nat.div_add_mod' m.length R
  have hlen := length_pad_add_mod m hR
  have hmessage : m.length / R * R + j < m.length ↔ j < m.length % R := by omega
  have hdelimiter : m.length / R * R + j = m.length ↔ j = m.length % R := by omega
  have hterminal : m.length / R * R + j = (pad m R).length - 1 ↔ j = R - 1 := by omega
  simp only [getD_pad_length m hR, getD_padBytes _ _ _ _ hj, hmessage, hdelimiter, hterminal]
  exact congrArg (· ^^^ _) (ite_congr rfl (fun hcopied => (htail j hcopied).symm) fun _ => rfl)

/-- Settles O50: up to the last block both sides are the message, and the last block is compared byte by
byte. -/
theorem padIsBlocksThenFinalBlock : Obligations.PadIsBlocksThenFinalBlock := by
  intro m R blk hR htail
  have hdiv := Nat.div_add_mod' m.length R
  have hlen := length_pad_add_mod m hR
  have hfull : (m.take (m.length / R * R)).length = m.length / R * R := by
    rw [List.length_take]; omega
  refine bytes_ext ?_ fun k hk => ?_
  · rw [List.length_append, hfull, length_padBytes]; omega
  · by_cases hblock : k < m.length / R * R
    · rw [List.getD_append _ _ _ _ (by omega), List.getD_eq_getElem (m.take _) 0 (by omega),
        List.getElem_take, ← List.getD_eq_getElem m 0, getD_pad_message m hR (by omega)]
    · obtain ⟨j, rfl⟩ := Nat.exists_eq_add_of_le (Nat.le_of_not_lt hblock)
      rw [List.getD_append_right _ _ _ _ (by omega), hfull, Nat.add_sub_cancel_left]
      exact getD_pad_last_block hR htail (by omega)

/-! ### What a command does not read of the block buffer -/

theorem Machine.xorBlock_congr {n : Nat} {V W : List Word} (A : Lanes)
    (h : ∀ i, i < 25 → i < n → V.getD i 0#64 = W.getD i 0#64) :
    xorBlock n V A = xorBlock n W A := by
  refine Vector.ext fun i hi => ?_
  rw [getElem_xorBlock n V A i hi, getElem_xorBlock n W A i hi]
  exact ite_congr rfl (fun hn => by rw [h i hi hn]) fun _ => rfl

theorem Machine.padBytes_congr {B C : Block} {len : Nat} (rate : Nat)
    (h : ∀ k, k < len → blkByte B k = blkByte C k) : padBytes B len rate = padBytes C len rate := by
  have hbyte (k : Nat) :
      (if k < len then blkByte B k else 0#8) = if k < len then blkByte C k else 0#8 :=
    ite_congr rfl (h k) fun _ => rfl
  simp only [padBytes, hbyte]

/-- Words of the block buffer from `n` up do not reach the lanes XORed with its first `n` words. -/
theorem Machine.xorBlock_toList_congr {n : Nat} {B C : Block} (A : Lanes)
    (h : ∀ j : Fin 17, j.val < n → B[j] = C[j]) : xorBlock n B.toList A = xorBlock n C.toList A := by
  refine xorBlock_congr A fun i _ hn => ?_
  by_cases hi : i < 17
  · simpa [hi] using h ⟨i, hi⟩ hn
  · rw [List.getD_eq_default _ _ (by simpa using hi), List.getD_eq_default _ _ (by simpa using hi)]

/-- A block XORed into the lanes beside another block buffer, when the words are the same for the lanes. -/
theorem Machine.absorbWords_withBlk {s : State} {V W : List Word} (B : Block)
    (h : xorBlock (rateLanes s) V s.lanes = xorBlock (rateLanes s) W s.lanes) :
    absorbWords V (accept { s with blk := B }) = { absorbWords W (accept s) with blk := B } := by
  simp only [absorbWords, accept, rateLanes] at h ⊢
  rw [h]

theorem exec_absorb_withBlk {s t : State} {B : Block}
    (h : xorBlock (rateLanes s) B.toList s.lanes = xorBlock (rateLanes s) s.blk.toList s.lanes)
    (e : exec .absorb s = .next t) : exec .absorb { s with blk := B } = .next { t with blk := B } := by
  obtain hb | hb := Bool.eq_false_or_eq_true s.busy
  · rw [exec_busy hb] at e
    cases e
    exact exec_busy (s := { s with blk := B }) hb _
  · by_cases hp : s.sph = .absorbing
    · rw [exec_absorb_absorbing hb hp] at e
      cases e
      rw [exec_absorb_absorbing (by exact hb) (by exact hp), absorbWords_withBlk B h]
      rfl
    · rw [exec_absorb_badSequence hb hp] at e
      cases e
      exact exec_absorb_badSequence (s := { s with blk := B }) hb hp

theorem exec_final_withBlk {s t : State} {B : Block} {len : Nat}
    (h : padBlock B len s.rate.toNat = padBlock s.blk len s.rate.toNat)
    (e : exec (.final len) s = .next t) :
    exec (.final len) { s with blk := B } = .next { t with blk := B } := by
  obtain hb | hb := Bool.eq_false_or_eq_true s.busy
  · rw [exec_busy hb] at e
    cases e
    exact exec_busy (s := { s with blk := B }) hb _
  · by_cases hp : s.sph = .absorbing
    · by_cases hl : len < s.rate.toNat
      · rw [exec_final_absorbing hb hp hl] at e
        cases e
        rw [exec_final_absorbing (by exact hb) (by exact hp) (by exact hl),
          absorbWords_withBlk B (congrArg (xorBlock _ · _) h)]
        rfl
      · rw [exec_final_badLength hb hp (Nat.le_of_not_lt hl)] at e
        cases e
        exact exec_final_badLength (s := { s with blk := B }) hb hp (Nat.le_of_not_lt hl)
    · rw [exec_final_badSequence hb hp] at e
      cases e
      exact exec_final_badSequence (s := { s with blk := B }) hb hp

/-- Settles O16: the block enters ABSORB through its first RATE/8 words and FINAL through its first LEN
bytes, and the outcome is decided without it. -/
theorem staleBlockBytesIgnored : Obligations.StaleBlockBytesIgnored :=
  ⟨fun s _ h _ => exec_absorb_withBlk (xorBlock_toList_congr s.lanes h),
    fun s _ _ h _ => exec_final_withBlk (congrArg lanesFromBytes (padBytes_congr s.rate.toNat h))⟩

end Sys2Proof
end

section
/-!
The commands of the sponge controller (43_sponge.md R161 to R164; 30_encoding.md R73, R74): their words,
their rejections, the states their rounds end in, and what each of the six commands leaves unchanged.
-/

namespace Sys2Proof

open Sys2Proof.Machine

/-! ### The words of NOP, INIT, ABSORB and FINAL -/

theorem decode_eq_ok_iff_eq_encode {i : Instr} (hwf : i.wf = true) (w : Word) :
    decode w = .ok i ↔ w = encode i := by
  rw [decode_eq_ok_iff, eq_comm (a := w)]
  exact and_iff_right hwf

/-- A row whose mask covers every bit holds one word only. -/
theorem selects_eq_false_of_ne_pattern {row : OpcodeRow} {w : Word}
    (hmask : row.mask = BitVec.allOnes 64) (hw : w ≠ row.pattern) : row.selects w = false := by
  rw [OpcodeRow.selects, hmask, BitVec.and_allOnes]
  exact beq_eq_false_iff_ne.2 hw

/-- The row of INIT in the opcode map (R73). -/
def initRow : OpcodeRow := ⟨"INIT", 0x0000000000000001#64, 0xFFFFFFFF0000FFFF#64⟩

/-- The row of FINAL in the opcode map (R73). -/
def finalRow : OpcodeRow := ⟨"FINAL", 0x0000000000000003#64, 0xFFFFFFFFFFFF00FF#64⟩

/-- A word that decodes to a command selects the row that bears the command's mnemonic. -/
theorem selects_of_rowOf {w : Word} {i : Instr} {row : OpcodeRow} (hrow : rowOf i = some row)
    (h : decode w = .ok i) : row.selects w = true := by
  obtain ⟨row', hrow', hsel⟩ := decode_selects_row h
  rwa [Option.some.inj (hrow.symm.trans hrow')]

theorem decode_eq_init_iff (w : Word) (n : Nat) :
    decode w = .ok (.init n) ↔ initRow.selects w = true ∧ n = field w 31 16 := by
  constructor
  · intro h
    have hcases := decode_cases h
    simp only [reduceCtorEq, false_and, false_or, or_false, Instr.init.injEq] at hcases
    obtain ⟨hn, -⟩ := hcases
    exact ⟨selects_of_rowOf rfl h, hn⟩
  · rintro ⟨hsel, rfl⟩
    obtain ⟨-, toInit, -⟩ := decode_of_fields (w := w)
    have hf := fun hi lo => field_of_selects (hi := hi) (lo := lo) hsel
    exact toInit (hf 3 0 (by decide)) (hf 15 4 (by decide)) (hf 63 32 (by decide))

theorem decode_eq_final_iff (w : Word) (len : Nat) :
    decode w = .ok (.final len) ↔ finalRow.selects w = true ∧ len = field w 15 8 := by
  constructor
  · intro h
    have hcases := decode_cases h
    simp only [reduceCtorEq, false_and, false_or, or_false, Instr.final.injEq] at hcases
    obtain ⟨hlen, -⟩ := hcases
    exact ⟨selects_of_rowOf rfl h, hlen⟩
  · rintro ⟨hsel, rfl⟩
    obtain ⟨-, -, -, toFinal, -⟩ := decode_of_fields (w := w)
    have hf := fun hi lo => field_of_selects (hi := hi) (lo := lo) hsel
    exact toFinal (hf 3 0 (by decide)) (hf 7 4 (by decide)) (hf 63 16 (by decide))

/-! ### NOP and INIT -/

/-- Settles O8: one word, and the acceptance of a command that has no other effect. -/
theorem nopCommand : Obligations.NopCommand := by
  refine ⟨decode_eq_ok_iff_eq_encode (i := .nop) rfl, fun s w hb hop hw => ?_,
    fun s hb => exec_busy hb _, fun s => exec_nop_idle⟩
  exact writeReg_cmd_outside_row hb
    (row := ⟨"NOP", 0x0000000000000000#64, 0xFFFFFFFFFFFFFFFF#64⟩) (by decide) hop
    (selects_eq_false_of_ne_pattern rfl hw)

/-- Settles O9: the row of INIT with its operand, and the configuration of a supported length. -/
theorem initCommand : Obligations.InitCommand := by
  refine ⟨fun w n => ?_, fun s w hb hop hw => ?_, fun s n hb => exec_busy hb _,
    fun s n => exec_init_unsupported, fun s n => exec_init_supported⟩
  · rw [decode_eq_init_iff, OpcodeRow.selects, beq_iff_eq]; rfl
  · exact writeReg_cmd_outside_row hb (row := initRow) (by decide) hop (beq_eq_false_iff_ne.2 hw)

/-! ### ABSORB and FINAL -/

theorem Machine.getD_toList_block (B : Block) (i : Nat) : B.toList.getD i 0#64 = B.getD i 0 := by
  by_cases hi : i < 17 <;> simp [Vector.getD, hi]

/-- Settles O10: the lanes are those of the block buffer XORed in, and the 24 rounds are Keccak-f. -/
theorem absorbCommand : Obligations.AbsorbCommand := by
  refine ⟨decode_eq_ok_iff_eq_encode (i := .absorb) rfl, fun s w hb hop hw => ?_,
    fun s hb => exec_busy hb _, fun s => exec_absorb_badSequence, fun s hb hp =>
    ⟨xorBlock (rateLanes s) s.blk.toList s.lanes, fun i => ?_, exec_absorb_absorbing hb hp,
      iterate_engineStep_full .absorb (absorbWords s.blk.toList (accept s))⟩⟩
  · exact writeReg_cmd_outside_row hb
      (row := ⟨"ABSORB", 0x0000000000000002#64, 0xFFFFFFFFFFFFFFFF#64⟩) (by decide) hop
      (selects_eq_false_of_ne_pattern rfl hw)
  · rw [← getD_toList_block]
    exact getElem_xorBlock _ _ _ i.val i.isLt

/-- Settles O11: the row of FINAL with its operand, the padded block XORed in, and the 24 rounds of
Keccak-f, the last of which enters SQUEEZING. -/
theorem finalCommand : Obligations.FinalCommand := by
  refine ⟨fun w len => ?_, fun s w hb hop hw => ?_, fun s len hb => exec_busy hb _,
    fun s len => exec_final_badSequence, fun s len => exec_final_badLength, fun s len hb hp hl =>
    ⟨xorBlock (rateLanes s) (padBlock s.blk len s.rate.toNat) s.lanes,
      fun i => getElem_xorBlock _ _ _ i.val i.isLt, exec_final_absorbing hb hp hl,
      iterate_engineStep_full .final (absorbWords (padBlock s.blk len s.rate.toNat) (accept s))⟩⟩
  · rw [decode_eq_final_iff, OpcodeRow.selects, beq_iff_eq]; rfl
  · exact writeReg_cmd_outside_row hb (row := finalRow) (by decide) hop (beq_eq_false_iff_ne.2 hw)

/-! ### What a command leaves unchanged -/

/-- A command's next state is a rejection, which changes ERR only, or its acceptance. -/
theorem exec_rejected_or_accepted {i : Instr} {s t : State} (e : exec i s = .next t) :
    (∃ c, t = cmdRejected c s) ∨ Accepted i s t := by
  obtain ⟨-, ht⟩ | ⟨-, c, -, -, ht⟩ | ⟨-, ha⟩ := exec_cases e
  · exact .inl ⟨_, ht⟩
  · exact .inl ⟨c, ht⟩
  · exact .inr ha

/-- XOR of a block leaves the lanes beyond the rate portion as they were (R163, R164). -/
theorem Machine.absorbWords_lanes_above_rate {W : List Word} {s : State} {j : Fin 25}
    (hj : rateLanes s ≤ j.val) : (absorbWords W s).lanes[j] = s.lanes[j] := by
  rw [absorbWords_lanes]
  exact (getElem_xorBlock _ _ _ j.val j.isLt).trans (if_neg (Nat.not_lt.2 hj))

section

variable {i : Instr} {s t : State}

theorem exec_keeps_host_and_blk (e : exec i s = .next t) :
    t.blk = s.blk ∧ t.program = s.program ∧ t.observed = s.observed ∧ t.hostError = s.hostError ∧
      t.turns = s.turns ∧ t.draws = s.draws ∧ t.stream = s.stream := by
  obtain ⟨c, rfl⟩ | ha := exec_rejected_or_accepted e
  · simp
  · cases ha <;> simp

theorem exec_keeps_config (hi : ∀ n, i ≠ .init n) (e : exec i s = .next t) :
    t.outBits = s.outBits ∧ t.rate = s.rate ∧ t.sph = s.sph := by
  obtain ⟨c, rfl⟩ | ha := exec_rejected_or_accepted e
  · simp
  · cases ha with
    | init _ n => exact absurd rfl (hi n)
    | nop | absorb | final | permute | round => simp

theorem exec_keeps_lanes (hi : i = .nop ∨ i = .permute ∨ ∃ r, i = .round r)
    (e : exec i s = .next t) : t.lanes = s.lanes := by
  obtain ⟨c, rfl⟩ | ha := exec_rejected_or_accepted e
  · rfl
  · cases ha with
    | init | absorb | final => simp at hi
    | nop | permute | round => rfl

theorem exec_keeps_capacity (hi : i = .absorb ∨ ∃ n, i = .final n) (e : exec i s = .next t)
    (j : Fin 25) (hj : s.rate.toNat / 8 ≤ j.val) : t.lanes[j] = s.lanes[j] := by
  obtain ⟨c, rfl⟩ | ha := exec_rejected_or_accepted e
  · rfl
  · cases ha with
    | absorb | final => exact absorbWords_lanes_above_rate (s := accept s) hj
    | nop | init | permute | round => simp at hi

theorem exec_keeps_rounds (hi : i = .nop ∨ ∃ n, i = .init n) (e : exec i s = .next t) :
    t.busy = s.busy ∧ t.rcnt = s.rcnt ∧ t.pend = s.pend ∧ t.rend = s.rend := by
  obtain ⟨c, rfl⟩ | ha := exec_rejected_or_accepted e
  · simp
  · cases ha with
    | nop | init => simp
    | absorb | final | permute | round => simp at hi

end

/-- Settles O14: a rejection changes ERR only, and the acceptance of each command is read off its
effect. -/
theorem commandFrames : Obligations.CommandFrames :=
  ⟨fun _ _ _ => exec_keeps_host_and_blk, fun _ _ _ => exec_keeps_config,
    fun _ _ _ => exec_keeps_lanes, fun _ _ _ => exec_keeps_capacity, fun _ _ _ => exec_keeps_rounds⟩

end Sys2Proof
end

section
/-!
Runs of a host that tests a command with CHECK before it waits for it, and of one that reads lanes
(30_encoding.md R81, R82; 41_permutation.md R132).
-/

namespace Sys2Proof

open Sys2Proof.Machine

/-! ### A busy machine reaches its host's next statement -/

theorem nextTurn_of_noReset {s : State} (hr : NoReset s) :
    (nextTurn s).1 ≠ .reset ∧ Turn.reset ∉ (nextTurn s).2 := by
  cases hts : s.turns with
  | nil => rw [nextTurn_nil hts]; cases s.busy <;> simp
  | cons u us =>
    rw [NoReset, hts, List.mem_cons, not_or] at hr
    obtain ⟨hu, hus⟩ := hr
    rw [nextTurn_cons hts]
    exact ⟨Ne.symm hu, hus⟩

theorem engineStep_withTurns (s : State) (ts : List Turn) :
    engineStep { s with turns := ts } = { engineStep s with turns := ts } := by
  simpa using engineStep_withSchedule s s.program s.observed ts

theorem iterate_engineStep_withTurns (k : Nat) (s : State) (ts : List Turn) :
    engineStep^[k] { s with turns := ts } = { engineStep^[k] s with turns := ts } := by
  induction k generalizing s with
  | zero => rfl
  | succ k ih => rw [Function.iterate_succ_apply, engineStep_withTurns, ih]; rfl

/-- With `k` engine steps left and no reset to come, a run reaches the host's next statement after `j` of
them, with nothing else changed but the turns. -/
theorem RoundsLeft.runsTo_next_stmt {s : State} {k : Nat} {st : HostStmt} {rest : List HostStmt}
    (h : RoundsLeft k s) (hr : NoReset s) (hp : s.program = st :: rest) :
    ∃ n j l us ts, j + l = k ∧ RunsTo n s { engineStep^[j] s with turns := us } ∧
      HostPerforms { engineStep^[j] s with turns := us } st
        { engineStep^[j] s with program := rest, turns := ts } ∧ Turn.reset ∉ ts := by
  induction k generalizing s with
  | zero =>
    obtain ⟨n, us, ts, hrun, hperf, hts⟩ := runsTo_hostPerforms h.idle_of_zero hr hp
    exact ⟨n, 0, 0, us, ts, rfl, hrun, hperf, hts⟩
  | succ k ih =>
    obtain ⟨hturn, hrest⟩ := nextTurn_of_noReset hr
    cases ht : (nextTurn s).1 with
    | reset => exact absurd ht hturn
    | host => exact ⟨0, 0, k + 1, s.turns, _, Nat.zero_add _, .refl s, ⟨ht, rest, hp, rfl⟩, hrest⟩
    | engine =>
      have hstep : step s = .next { engineStep s with turns := (nextTurn s).2 } := by
        rw [step_engine ht, turnUsed, engineStep_withTurns]
      obtain ⟨n, j, l, us, ts, hjl, hrun, hperf, hts⟩ :=
        ih (s := { engineStep s with turns := (nextTurn s).2 })
          (h.after_step.of_sameEngine (.refl _)) hrest (by simpa using hp)
      rw [iterate_engineStep_withTurns, ← Function.iterate_succ_apply] at hrun hperf
      exact ⟨n + 1, j + 1, l, us, ts, by omega, .head hstep hrun, hperf, hts⟩

/-! ### A command statement followed by CHECK and WAIT -/

theorem iterate_engineStep_err (k : Nat) (s : State) : (engineStep^[k] s).err = s.err := by
  induction k generalizing s with
  | zero => rfl
  | succ k ih => rw [Function.iterate_succ_apply, ih, engineStep_err]

/-- A host that writes a command from an idle state reaches the command's next state, under any schedule
without a reset. -/
theorem runsTo_cmdStmt {s : State} {i : Instr} {rest : List HostStmt} (hwf : i.wf = true)
    (hb : s.busy = false) (hr : NoReset s) (hp : s.program = cmdStmt i :: rest) :
    ∃ n ts, Turn.reset ∉ ts ∧
      ∀ u, exec i { s with program := rest, turns := ts } = .next u → RunsTo n s u := by
  obtain ⟨n, us, ts, hreach, hperf, hts⟩ := runsTo_hostPerforms hb hr hp
  exact ⟨n + 1, ts, hts, fun u he => hreach.trans
    (.single ((step_wr_cmd hperf (decodeOfEncode i hwf)).trans he))⟩

section

variable {s : State} {k : Nat} {rest : List HostStmt} (h : RoundsLeft k s) (hr : NoReset s)
  (he : s.err = .ok)
include h hr he

/-- CHECK is passed after some of the engine steps left when ERR is 0. -/
theorem RoundsLeft.runsTo_of_check (hp : s.program = .check :: rest) :
    ∃ n j l obs ts, j + l = k ∧ RunsTo n s { engineStep^[j] s with
      program := rest, observed := obs, turns := ts } ∧ Turn.reset ∉ ts := by
  obtain ⟨n, j, l, us, ts, hjl, hreach, hperf, hts⟩ := h.runsTo_next_stmt hr hp
  have hok : (engineStep^[j] s).err = .ok := (iterate_engineStep_err j s).trans he
  exact ⟨n + 1, j, l, _, ts, hjl, hreach.trans (.single (step_check_ok hperf hok)), hts⟩

/-- CHECK and WAIT are passed once the engine has taken all the steps it has left. -/
theorem RoundsLeft.runsTo_of_check_wait (hp : s.program = .check :: .wait :: rest) :
    ∃ n obs ts, RunsTo n s { engineStep^[k] s with
      program := rest, observed := obs, turns := ts } ∧ Turn.reset ∉ ts := by
  obtain ⟨m, j, l, obs, us, rfl, hcheck, hus⟩ := h.runsTo_of_check hr he hp
  obtain ⟨n, obs', ts, hwait, hts⟩ := ((h.after_steps j).of_sameEngine (t := { engineStep^[j] s with
    program := .wait :: rest, observed := obs, turns := us }) (.refl _)).runsTo_of_wait hus rfl
  rw [iterate_engineStep_withSchedule l, ← Function.iterate_add_apply, Nat.add_comm l j] at hwait
  exact ⟨m + n, obs', ts, hcheck.trans hwait, hts⟩

end

/-- A command that is accepted, followed by CHECK and WAIT, has its atomic effect (R132). -/
theorem Machine.Accepted.runsTo_cmd_check_wait {i : Instr} {s u : State} {rest : List HostStmt}
    (ha : Accepted i s u) (hwf : i.wf = true) (hb : s.busy = false) (hr : NoReset s)
    (hp : s.program = cmdStmt i :: .check :: .wait :: rest) :
    ∃ n r p obs ts, RunsTo n s { u with
      lanes := atomicLanes i s, busy := false, rcnt := r, pend := p, sph := phaseAfterRounds i u.sph,
      program := rest, observed := obs, turns := ts } ∧ Turn.reset ∉ ts := by
  obtain ⟨m, us, hus, hcmd⟩ := runsTo_cmdStmt hwf hb hr hp
  have hwrite := hcmd _ (ha.exec_withSchedule hb _ us)
  have hleft : RoundsLeft (engineSteps i) { u with program := .check :: .wait :: rest, turns := us } :=
    (ha.roundsLeft hb).of_sameEngine (.refl u)
  obtain ⟨n, obs, ts, hpass, hts⟩ := hleft.runsTo_of_check_wait hus ha.err_ok rfl
  obtain ⟨r, p, hrounds⟩ := ha.after_rounds hb
  rw [iterate_engineStep_withSchedule (o := u.observed), hrounds] at hpass
  exact ⟨m + n, r, p, obs, ts, hwrite.trans hpass, hts⟩

/-! ### Reads of lanes -/

/-- A host that reads lanes from an idle state ends with each of them, and those it had before, under its
name. -/
theorem runsTo_lane_reads (is : List (Fin 25)) {s : State} (hb : s.busy = false) (hr : NoReset s)
    (hp : s.program = is.map fun i => rdStmt (.lane i) (.d i.val)) :
    ∃ n obs ts, RunsTo n s { s with program := [], observed := obs, turns := ts } ∧
      Turn.reset ∉ ts ∧ ∀ i : Fin 25, i ∈ is ∨ s.observed.lookup (.d i.val) = some s.lanes[i] →
        obs.lookup (.d i.val) = some s.lanes[i] := by
  induction is generalizing s with
  | nil =>
    refine ⟨0, s.observed, s.turns, ?_, hr, fun i hi => by simpa using hi⟩
    rw [← show s.program = [] from hp]
    exact .refl s
  | cons j is ih =>
    obtain ⟨m, us, ts, hreach, hperf, hts⟩ := runsTo_hostPerforms hb hr hp
    have hread := step_rd_reg (r := .lane j) hperf
    rw [readReg_lane_idle (by exact hb), afterRead_lane_idle (by exact hb)] at hread
    obtain ⟨n, obs, ts', hrun, hts', hobs⟩ := ih (s := { s with
      program := is.map fun i => rdStmt (.lane i) (.d i.val)
      observed := (.d j.val, s.lanes[j]) :: s.observed, turns := ts }) hb hts rfl
    refine ⟨m + (n + 1), obs, ts', hreach.trans (.head hread hrun), hts', fun i hi => hobs i ?_⟩
    by_cases hij : i = j
    · right; simp [hij]
    · have hname : (HostVar.d i.val == HostVar.d j.val) = false :=
        beq_eq_false_iff_ne.2 fun e => hij (Fin.ext (HostVar.d.inj e))
      simpa [List.lookup_cons, hij, hname] using hi

end Sys2Proof
end

section
/-!
The source's hash (43_sponge.md R160, R171, R172, R181): its output, and its sponge over the padded message
as full blocks and the one block the hardware pads.
-/

namespace Sys2Proof

open Sys2Proof.Machine

/-! ### The reference hash -/

theorem keccakHash_supported {bits : Nat} (hbits : bits ∈ [256, 384, 512]) (m : List Byte) :
    keccakHash bits m = .ok (sponge (pad m (rateOf bits)) (rateOf bits) (bits / 8)) :=
  if_pos ((supportedOutBits_iff bits).2 hbits)

theorem keccakHash_unsupported {bits : Nat} (hbits : bits ∉ [256, 384, 512]) (m : List Byte) :
    keccakHash bits m = .error .invalidParameter :=
  if_neg (mt (supportedOutBits_iff bits).1 hbits)

theorem length_sponge (P : List Byte) (rate out : Nat) : (sponge P rate out).length = min out 200 := by
  rw [sponge, List.length_take, length_stateBytes]

/-- The rate of a supported output length is not 0 and fits the block buffer (R160, R22). -/
theorem supported_rate {bits : Nat} (hbits : bits ∈ [256, 384, 512]) :
    1 ≤ rateOf bits ∧ rateOf bits ≤ 136 := by
  revert bits
  decide

/-- A supported output length fits its operand field, and its output the state (R71, R170). -/
theorem supported_output {bits : Nat} (hbits : bits ∈ [256, 384, 512]) :
    bits < 2 ^ 16 ∧ bits / 8 ≤ 200 ∧ bits / 64 ≤ 25 := by
  revert bits
  decide

/-- CONFIG holds a supported output length and its rate exactly (R23). -/
theorem supported_config {bits : Nat} (hbits : bits ∈ [256, 384, 512]) :
    (BitVec.ofNat 16 bits).toNat = bits ∧ (BitVec.ofNat 8 (rateOf bits)).toNat = rateOf bits := by
  revert bits
  decide

/-- Settles O51: the output is cut from the 200 bytes of the state, which a supported length does not
exceed. -/
theorem hashOutput : Obligations.HashOutput := by
  refine ⟨fun bits m d h => ?_, fun bits m hbits => keccakHash_unsupported hbits m⟩
  by_cases hbits : bits ∈ [256, 384, 512]
  · obtain ⟨-, hout, -⟩ := supported_output hbits
    rw [keccakHash_supported hbits] at h
    rw [← Except.ok.inj h, length_sponge, Nat.min_eq_left hout]
  · rw [keccakHash_unsupported hbits] at h
    cases h

/-- The lanes after the full blocks `0 .. q-1` of a message are absorbed into zero lanes (R171). -/
def absorbedBlocks (rate : Nat) (m : List Byte) (q : Nat) : Lanes :=
  (List.range q).foldl (fun A b => absorbBlock rate A (blockAt m rate b)) zeroLanes

/-- A block below block `q` ends where block `q` begins, or before. -/
theorem block_end_le {b q : Nat} (R : Nat) (hb : b < q) : b * R + R ≤ q * R := by
  rw [← Nat.succ_mul]
  exact Nat.mul_le_mul_right R hb

/-- The first `q` blocks of a message stay its blocks, whatever follows them. -/
theorem blockAt_take_append {m tail : List Byte} {R q b : Nat} (hq : q * R ≤ m.length) (hb : b < q) :
    blockAt (m.take (q * R) ++ tail) R b = blockAt m R b := by
  have hend := block_end_le R hb
  have hlen : (m.take (q * R)).length = q * R := List.length_take_of_le hq
  rw [blockAt, blockAt, List.drop_append_of_le_length (by omega),
    List.take_append_of_le_length (by rw [List.length_drop]; omega), List.drop_take, List.take_take,
    Nat.min_eq_left (by omega)]

/-- The sponge over the padded message absorbs the full blocks and the one block the hardware pads
(R145). -/
theorem sponge_pad {m : List Byte} {R : Nat} {blk : Block} (hR : 1 ≤ R)
    (htail : ∀ k, k < m.length % R → blkByte blk k = m.getD (m.length / R * R + k) 0) (out : Nat) :
    sponge (pad m R) R out =
      (stateBytes (absorbBlock R (absorbedBlocks R m (m.length / R))
        (padBytes blk (m.length % R) R))).take out := by
  have hq : m.length / R * R ≤ m.length := Nat.div_mul_le_self _ _
  have hpad := padIsBlocksThenFinalBlock m R blk hR htail
  have hcount : (pad m R).length / R = m.length / R + 1 := by
    rw [length_pad m R hR, Nat.mul_div_cancel_left _ hR]
  have hfull : ∀ A, ∀ b ∈ List.range (m.length / R),
      absorbBlock R A (blockAt (pad m R) R b) = absorbBlock R A (blockAt m R b) := by
    intro A b hb
    rw [hpad, blockAt_take_append hq (List.mem_range.1 hb)]
  have hlast : blockAt (pad m R) R (m.length / R) = padBytes blk (m.length % R) R := by
    rw [hpad, blockAt, List.drop_left' (List.length_take_of_le hq),
      List.take_of_length_le (length_padBytes _ _ _).le]
  rw [sponge, hcount, List.range_succ, List.foldl_append, List.foldl_cons, List.foldl_nil, hlast,
    List.foldl_ext _ _ _ hfull]
  rfl

end Sys2Proof
end

section
/-!
The host program HASH (43_sponge.md R180): its run is followed from one point of the program to the next.
-/

namespace Sys2Proof

open Sys2Proof.Machine

/-! ### INIT and its CHECK -/

/-- Settles O54: the INIT is rejected with code 1, and CHECK leaves the program. -/
theorem hashProgramRejectsParameter : Obligations.HashProgramRejectsParameter := by
  intro s bits m hlt hbits hb hr hp
  obtain ⟨rest, hrest⟩ : ∃ rest, hashStmts bits m = cmdStmt (.init bits) :: .check :: rest := ⟨_, rfl⟩
  obtain ⟨k, us, hus, hcmd⟩ := runsTo_cmdStmt (i := .init bits) (decide_eq_true hlt) hb hr (hp.trans hrest)
  have hwrite := hcmd _ (exec_init_unsupported (by exact hb) hbits)
  obtain ⟨n, us', ts, hreach, hperf, -⟩ := runsTo_hostPerforms (s := cmdRejected .invalidParameter
    { s with program := .check :: rest, turns := us }) hb hus rfl
  exact ⟨k + (n + 1), _, hwrite.trans (hreach.trans (.single (step_check_err hperf nofun))),
    rfl, rfl, rfl, .refl _⟩

/-- A point of the program HASH between two of its commands: the engine is idle and configured for `bits`,
in phase `p` with lanes `A`; the host has taken no error branch and has still to perform `todo`. -/
structure HashPoint (bits : Nat) (p : Phase) (A : Lanes) (todo : List HostStmt) (s : State) : Prop where
  idle : s.busy = false
  noReset : NoReset s
  noError : s.hostError = false
  outBits : s.outBits = BitVec.ofNat 16 bits
  rate : s.rate = BitVec.ofNat 8 (rateOf bits)
  phase : s.sph = p
  lanes : s.lanes = A
  program : s.program = todo

section

variable {bits : Nat} {rest : List HostStmt} {s : State} (hbits : bits ∈ [256, 384, 512])
include hbits

/-- An accepted INIT and its CHECK lead to the first point, with zero lanes. -/
theorem runsTo_init_check (hb : s.busy = false) (hr : NoReset s) (he : s.hostError = false)
    (hp : s.program = cmdStmt (.init bits) :: .check :: rest) :
    ∃ n t, RunsTo n s t ∧ HashPoint bits .absorbing zeroLanes rest t := by
  obtain ⟨hwf, -⟩ := supported_output hbits
  obtain ⟨k, us, hus, hcmd⟩ := runsTo_cmdStmt (i := .init bits) (decide_eq_true hwf) hb hr hp
  have hwrite := hcmd _ (exec_init_supported (by exact hb) hbits)
  obtain ⟨n, us', ts, hreach, hperf, hts⟩ := runsTo_hostPerforms (s := configure bits
    (accept { s with program := .check :: rest, turns := us })) hb hus rfl
  exact ⟨k + (n + 1), _, hwrite.trans (hreach.trans (.single (step_check_ok hperf rfl))),
    { idle := hb, noReset := hts, noError := he, outBits := rfl, rate := rfl, phase := rfl,
      lanes := rfl, program := rfl }⟩

end

/-! ### The blocks -/

section

variable {bits : Nat} {p : Phase} {A : Lanes} {rest : List HostStmt} {s : State}

theorem HashPoint.runsTo_loadBlk {bytes : List Byte} (h : HashPoint bits p A (loadBlk bytes ++ rest) s)
    (hlen : bytes.length ≤ 136) :
    ∃ n t, RunsTo n s t ∧ HashPoint bits p A rest t ∧
      ∀ k, k < bytes.length → blkByte t.blk k = bytes.getD k 0 := by
  have hwords := length_words_zeroFill8 bytes
  obtain ⟨n, B, ts, hrun, hts, hB⟩ := runsTo_blkWrites _ 0 (by omega) h.idle h.noReset h.program
  refine ⟨n, _, hrun, { h with noReset := hts, program := rfl }, fun k hk => ?_⟩
  rw [blkByte_eq_byteOf B (by omega), hB, if_pos (by omega), Nat.sub_zero,
    byteOf_words_zeroFill8 bytes (by omega)]

/-- A command of the sponge's rounds that is accepted leads, with its CHECK and WAIT, to the next point. -/
theorem HashPoint.runsTo_cmd {i : Instr} {u : State}
    (h : HashPoint bits p A (cmdStmt i :: .check :: .wait :: rest) s) (hwf : i.wf = true)
    (hi : ∀ n, i ≠ .init n) (ha : Accepted i s u) :
    ∃ n t, RunsTo n s t ∧ HashPoint bits (phaseAfterRounds i p) (atomicLanes i s) rest t := by
  obtain ⟨n, r, q, obs, ts, hrun, hts⟩ := ha.runsTo_cmd_check_wait hwf h.idle h.noReset h.program
  have hexec := ha.exec_withSchedule h.idle s.program s.turns
  obtain ⟨hout, hrate, hsph⟩ := exec_keeps_config hi hexec
  obtain ⟨-, -, -, hnoError, -⟩ := exec_keeps_host_and_blk hexec
  exact ⟨n, _, hrun,
    { idle := rfl, noReset := hts, noError := hnoError.trans h.noError, outBits := hout.trans h.outBits
      rate := hrate.trans h.rate, phase := congrArg (phaseAfterRounds i) (hsph.trans h.phase)
      lanes := rfl, program := rfl }⟩

end

/-- A word of the buffer whose bytes are those of a block is the block's word (R51). -/
theorem Machine.getD_toList_of_blkByte {B : Block} {bytes : List Byte} (hlen : bytes.length ≤ 136)
    (h : ∀ k, k < bytes.length → blkByte B k = bytes.getD k 0) {i : Nat} (hi : i < bytes.length / 8) :
    B.toList.getD i 0#64 = (lanesFromBytes bytes).getD i 0#64 := by
  have hi17 : i < 17 := by omega
  rw [List.getD_eq_getElem _ _ (by simpa using hi17), List.getD_eq_getElem _ _ (by simpa using hi),
    Vector.getElem_toList, getElem_lanesFromBytes]
  refine word_ext_bytes fun m hm => ?_
  have hdiv : (8 * i + m) / 8 = i := by omega
  have hmod : (8 * i + m) % 8 = m := by omega
  rw [byteOf_wordAtBytes _ _ _ hm, ← h (8 * i + m) (by omega), blkByte_eq_byteOf B (by omega)]
  simp only [hdiv, hmod]

section

variable {bits : Nat} {A : Lanes} {rest : List HostStmt} {s : State} (hbits : bits ∈ [256, 384, 512])
include hbits

/-- The statements of one full block absorb it as the source's driver does (R171). -/
theorem HashPoint.runsTo_absorbStmts {block : List Byte}
    (h : HashPoint bits .absorbing A (absorbStmts block ++ rest) s) (hlen : block.length = rateOf bits) :
    ∃ n t, RunsTo n s t ∧
      HashPoint bits .absorbing (absorbBlock (rateOf bits) A block) rest t := by
  obtain ⟨-, hmax⟩ := supported_rate hbits
  obtain ⟨-, hrate⟩ := supported_config hbits
  rw [absorbStmts, List.append_assoc] at h
  obtain ⟨m, u, hload, hu, hblk⟩ := h.runsTo_loadBlk (by omega)
  obtain ⟨n, t, hcmd, ht⟩ := hu.runsTo_cmd rfl nofun (.absorb u hu.phase)
  have hlanes : atomicLanes .absorb u = absorbBlock (rateOf bits) A block := by
    rw [atomicLanes, absorbBlock, rateLanes, hu.rate, hrate, hu.lanes,
      xorBlock_congr A fun i _ hi => getD_toList_of_blkByte (by omega) hblk (by omega)]
  exact ⟨m + n, t, hload.trans hcmd, hlanes ▸ ht⟩

/-- The statements of the last block absorb it padded and enter SQUEEZING (R144, R164). -/
theorem HashPoint.runsTo_finalStmts {tail : List Byte}
    (h : HashPoint bits .absorbing A (finalStmts tail ++ rest) s) (hlen : tail.length < rateOf bits) :
    ∃ n t B, RunsTo n s t ∧ (∀ k, k < tail.length → blkByte B k = tail.getD k 0) ∧
      HashPoint bits .squeezing
        (absorbBlock (rateOf bits) A (padBytes B tail.length (rateOf bits))) rest t := by
  obtain ⟨-, hmax⟩ := supported_rate hbits
  obtain ⟨-, hrate⟩ := supported_config hbits
  rw [finalStmts, List.append_assoc] at h
  obtain ⟨m, u, hload, hu, hblk⟩ := h.runsTo_loadBlk (by omega)
  have hurate : u.rate.toNat = rateOf bits := by rw [hu.rate, hrate]
  obtain ⟨n, t, hcmd, ht⟩ := hu.runsTo_cmd (decide_eq_true (by omega)) nofun
    (.final u tail.length hu.phase (by omega))
  refine ⟨m + n, t, u.blk, hload.trans hcmd, hblk, ?_⟩
  rwa [atomicLanes, rateLanes, hurate, hu.lanes] at ht

/-- The loop of HASH over the numbers of full blocks. -/
theorem HashPoint.runsTo_blocks {m : List Byte} (bs : List Nat)
    (hfull : ∀ b ∈ bs, (blockAt m (rateOf bits) b).length = rateOf bits)
    (h : HashPoint bits .absorbing A
      (bs.flatMap (fun b => absorbStmts (blockAt m (rateOf bits) b)) ++ rest) s) :
    ∃ n t, RunsTo n s t ∧ HashPoint bits .absorbing
      (bs.foldl (fun A b => absorbBlock (rateOf bits) A (blockAt m (rateOf bits) b)) A) rest t := by
  induction bs generalizing A s with
  | nil => exact ⟨0, s, .refl s, h⟩
  | cons b bs ih =>
    rw [List.flatMap_cons, List.append_assoc] at h
    obtain ⟨k, u, hblock, hu⟩ := h.runsTo_absorbStmts hbits (hfull b List.mem_cons_self)
    obtain ⟨n, t, hrun, ht⟩ := ih (fun b hb => hfull b (List.mem_cons_of_mem _ hb)) hu
    exact ⟨k + n, t, hblock.trans hrun, ht⟩

end

/-! ### READDIGEST -/

/-- The first `n` lanes, for `n` up to 25. -/
def firstLanes {n : Nat} (hn : n ≤ 25) : List (Fin 25) := (List.finRange n).map (Fin.castLE hn)

theorem mem_firstLanes {n : Nat} (hn : n ≤ 25) {i : Fin 25} (hi : i.val < n) : i ∈ firstLanes hn :=
  List.mem_map.2 ⟨⟨i.val, hi⟩, List.mem_finRange _, rfl⟩

theorem readDigest_eq_lane_reads {bits : Nat} (h : bits / 64 ≤ 25) :
    readDigest bits = (firstLanes h).map fun i => rdStmt (.lane i) (.d i.val) := by
  rw [readDigest, firstLanes, ← List.map_coe_finRange_eq_range, List.map_map, List.map_map]
  rfl

/-- READDIGEST reads each lane of the digest under its name and changes nothing of the engine (R82). -/
theorem HashPoint.runsTo_readDigest {bits : Nat} {p : Phase} {A : Lanes} {s : State}
    (hbits : bits ∈ [256, 384, 512]) (h : HashPoint bits p A (readDigest bits) s) :
    ∃ n t, RunsTo n s t ∧ HashPoint bits p A [] t ∧
      ∀ i : Fin 25, i.val < bits / 64 → t.observed.lookup (.d i.val) = some t.lanes[i] := by
  obtain ⟨-, -, hcount⟩ := supported_output hbits
  obtain ⟨n, obs, ts, hrun, hts, hobs⟩ :=
    runsTo_lane_reads _ h.idle h.noReset (h.program.trans (readDigest_eq_lane_reads hcount))
  exact ⟨n, _, hrun, { h with noReset := hts, program := rfl },
    fun i hi => hobs i (.inl (mem_firstLanes hcount hi))⟩

/-! ### The whole program -/

/-- The statements of HASH from its INIT on (R180). -/
theorem hashStmts_eq (bits : Nat) (m : List Byte) :
    hashStmts bits m = cmdStmt (.init bits) :: .check ::
      ((List.range (m.length / rateOf bits)).flatMap
          (fun b => absorbStmts (blockAt m (rateOf bits) b)) ++
        (finalStmts (m.drop (m.length / rateOf bits * rateOf bits)) ++ readDigest bits)) := by
  simp [hashStmts]

theorem length_blockAt {m : List Byte} {R b : Nat} (hb : b < m.length / R) :
    (blockAt m R b).length = R := by
  have hend := block_end_le R hb
  have hq : m.length / R * R ≤ m.length := Nat.div_mul_le_self _ _
  rw [blockAt, List.length_take, List.length_drop]
  omega

theorem length_message_tail (m : List Byte) (R : Nat) :
    (m.drop (m.length / R * R)).length = m.length % R := by
  rw [List.length_drop, ← Nat.mod_eq_sub_div_mul]

theorem HashPoint.digest_eq {bits : Nat} {p : Phase} {A : Lanes} {todo : List HostStmt} {s : State}
    (hbits : bits ∈ [256, 384, 512]) (h : HashPoint bits p A todo s) :
    digest s = (stateBytes A).take (bits / 8) := by
  obtain ⟨hout, -⟩ := supported_config hbits
  rw [digest, h.outBits, h.lanes, hout]

/-- Settles O53: the points of the program carry the lanes of the source's driver over the full blocks, and
FINAL absorbs the last block of the padded message. -/
theorem hashProgramComputesHash : Obligations.HashProgramComputesHash := by
  intro s bits m hbits hb he hr hp
  obtain ⟨hR, -⟩ := supported_rate hbits
  have htail := length_message_tail m (rateOf bits)
  rw [hashStmts_eq] at hp
  obtain ⟨n₁, s₁, run₁, at₁⟩ := runsTo_init_check hbits hb hr he hp
  obtain ⟨n₂, s₂, run₂, at₂⟩ :=
    at₁.runsTo_blocks hbits _ fun b hb => length_blockAt (List.mem_range.1 hb)
  obtain ⟨n₃, s₃, B, run₃, hB, at₃⟩ :=
    at₂.runsTo_finalStmts hbits (htail.trans_lt (Nat.mod_lt _ hR))
  obtain ⟨n₄, t, run₄, at₄, hread⟩ := at₃.runsTo_readDigest hbits
  rw [htail] at hB at₄
  have hblk : ∀ k, k < m.length % rateOf bits →
      blkByte B k = m.getD (m.length / rateOf bits * rateOf bits + k) 0 :=
    fun k hk => (hB k hk).trans (by simp)
  refine ⟨_, t, ((run₁.trans run₂).trans run₃).trans run₄, at₄.program, at₄.noError, at₄.idle,
    at₄.phase, ?_, hread⟩
  rw [keccakHash_supported hbits, sponge_pad hR hblk, at₄.digest_eq hbits]
  rfl

end Sys2Proof
end

section
/-!
Errors (60_exceptions.md R200 to R205): which writes change ERR, that a rejection changes nothing else, the
order of the causes, and that data decides none of it.
-/

namespace Sys2Proof

open Sys2Proof.Machine

/-! ### The order of the causes -/

theorem writeReg_cmd_illegal_idle {s : State} {w : Word} {e : Illegal} (hb : s.busy = false)
    (hd : decode w = .error e) : writeReg .cmd w s = .next { s with err := .illegalCommand } := by
  rw [writeReg_cmd_of_illegal hd, if_neg (by simp [hb])]
  rfl

/-- Settles O18: BUSY is tested before the word, the word before the command's own checks, SPH before LEN,
and the access before all of them. -/
theorem errorPriority : Obligations.ErrorPriority :=
  ⟨fun _ _ hb => guardIdle_busy hb _, fun _ _ _ => writeReg_cmd_illegal_idle,
    fun _ _ => exec_final_badSequence, fun _ _ => exec_final_badLength,
    fun _ _ _ _ _ h => (step_wr_fault_iff h).2⟩

/-! ### The effect of a write on ERR -/

theorem SameEngine.err_eq {s t : State} (h : SameEngine s t) : t.err = s.err := by
  obtain ⟨-, -, -, -, -, -, e, -⟩ := h
  exact e

section

variable {r : Reg} {v : Word} {s t : State}

/-- A write of CMD that leaves a code in ERR is the rejection with that code: acceptance clears ERR. -/
theorem WriteEffect.eq_cmdRejected (w : WriteEffect .cmd v s t) (herr : t.err ≠ .ok) :
    t = cmdRejected t.err s := by
  cases w with
  | ignored | busy | rejected => rfl
  | command _ _ a => exact absurd a.err_ok herr

/-- A register write leaves ERR alone, or it writes CMD, or it is a data write rejected for BUSY (R200). -/
theorem WriteEffect.err_cases (w : WriteEffect r v s t) :
    t.err = s.err ∨ r = .cmd ∨
    (s.busy = true ∧ t.err = .busy ∧ ((∃ i, r = .lane i) ∨ ∃ j, r = .blk j)) := by
  cases w with
  | ignored | lane | blk => exact .inl rfl
  | rejected | command => exact .inr (.inl rfl)
  | busy _ _ _ hb hstatus hconfig =>
    cases r with
    | lane i => exact .inr (.inr ⟨hb, rfl, .inl ⟨i, rfl⟩⟩)
    | blk j => exact .inr (.inr ⟨hb, rfl, .inr ⟨j, rfl⟩⟩)
    | cmd => exact .inr (.inl rfl)
    | status => exact absurd rfl hstatus
    | config => exact absurd rfl hconfig

end

/-- Settles O17: of the effects of a CMD write only the rejections leave ERR nonzero. -/
theorem rejectionIsPrecise : Obligations.RejectionIsPrecise :=
  fun _ _ _ e => (writeReg_effect e).eq_cmdRejected

/-- Settles O19: of a step's effects on the engine only a register write and a reset touch ERR. -/
theorem errWriters : Obligations.ErrWriters := by
  intro s t e hne
  cases step_effect e with
  | unchanged hs => exact absurd hs.err_eq hne
  | write hp hw =>
    have hs := hp.sameEngine
    obtain herr | rfl | ⟨hb, herr, ⟨i, rfl⟩ | ⟨j, rfl⟩⟩ := hw.err_cases
    · exact absurd (herr.trans hs.err_eq) hne
    · exact .inl ⟨_, _, hp⟩
    · exact .inr (.inl ⟨hs.busy_eq ▸ hb, herr, _, _, .inl ⟨i, hp⟩⟩)
    · exact .inr (.inl ⟨hs.busy_eq ▸ hb, herr, _, _, .inr ⟨j, hp⟩⟩)
  | round _ _ ht => exact absurd (by simp [ht]) hne
  | reset hturn ht => exact .inr (.inr ⟨hturn, by simp [ht]⟩)

/-! ### Commands at other data -/

/-- A command gives next states at two states that differ in the lanes and the block only, and these differ
there only: each test of a command reads BUSY, SPH, CONFIG or an operand. -/
theorem exec_withData (i : Instr) (s : State) (A : Lanes) (B : Block) :
    ∃ t A', exec i s = .next t ∧
      exec i { s with lanes := A, blk := B } = .next { t with lanes := A', blk := B } := by
  obtain hb | hb := Bool.eq_false_or_eq_true s.busy
  · exact ⟨_, A, exec_busy hb i, exec_busy (by exact hb) i⟩
  · cases i with
    | nop => exact ⟨_, A, exec_nop_idle hb, exec_nop_idle hb⟩
    | permute => exact ⟨_, A, exec_permute_idle hb, exec_permute_idle hb⟩
    | init n =>
      by_cases hn : n ∈ [256, 384, 512]
      · exact ⟨_, zeroLanes, exec_init_supported hb hn, exec_init_supported hb hn⟩
      · exact ⟨_, A, exec_init_unsupported hb hn, exec_init_unsupported hb hn⟩
    | round ridx =>
      by_cases hr : 23 < ridx
      · exact ⟨_, A, exec_round_badRound hb hr, exec_round_badRound hb hr⟩
      · exact ⟨_, A, exec_round_index hb ⟨ridx, by omega⟩,
          exec_round_index (by exact hb) ⟨ridx, by omega⟩⟩
    | absorb =>
      by_cases hp : s.sph = .absorbing
      · exact ⟨_, xorBlock (rateLanes s) B.toList A, exec_absorb_absorbing hb hp,
          exec_absorb_absorbing hb hp⟩
      · exact ⟨_, A, exec_absorb_badSequence hb hp, exec_absorb_badSequence hb hp⟩
    | final len =>
      by_cases hp : s.sph = .absorbing
      · by_cases hl : s.rate.toNat ≤ len
        · exact ⟨_, A, exec_final_badLength hb hp hl, exec_final_badLength hb hp hl⟩
        · have hl : len < s.rate.toNat := Nat.lt_of_not_le hl
          exact ⟨_, xorBlock (rateLanes s) (padBlock B len s.rate.toNat) A,
            exec_final_absorbing hb hp hl, exec_final_absorbing hb hp hl⟩
      · exact ⟨_, A, exec_final_badSequence hb hp, exec_final_badSequence hb hp⟩

/-- Settles O15: the next state of a command is unique, and at other data it is that one but for the
data. -/
theorem commandOutcomeIndependentOfData : Obligations.CommandOutcomeIndependentOfData := by
  intro i s t A B e
  obtain ⟨u, A', hu, hdata⟩ := exec_withData i s A B
  obtain rfl : u = t := Host.Outcome.next.inj (hu.symm.trans e)
  exact ⟨A', hdata⟩

end Sys2Proof
end

section
/-!
More than one agent (60_exceptions.md R211): the instances of a platform, and the hosts that share one
instance.
-/

namespace Sys2Proof

open Sys2Proof.Machine

/-! ### Instances -/

/-- The state instance `k` is in after its step from `s`: the machine's next state, or `s` where the step
gives none. -/
def Machine.instanceAfter (k : Nat) (s : State) : State :=
  match step (asInstance k s) with
  | .next t => t
  | .fault _ => s
  | .refused _ => s

theorem Machine.instanceAfter_of_next {k : Nat} {s t : State} (e : step (asInstance k s) = .next t) :
    instanceAfter k s = t := by
  rw [instanceAfter, e]

/-- A step of an instance reads and writes that instance's place only. -/
theorem Machine.stepInstance_eq_set {n : Nat} (k : Fin n) (p : Platform n) :
    stepInstance k p = p.set k.val (instanceAfter k.val p[k]) k.isLt := by
  rw [stepInstance, instanceAfter]
  cases step (asInstance k.val p[k]) with
  | next t => rfl
  | fault | refused => exact (Vector.set_getElem_self k.isLt).symm

theorem Machine.getElem_stepInstance_self {n : Nat} (k : Fin n) (p : Platform n) :
    (stepInstance k p)[k] = instanceAfter k.val p[k] := by
  rw [stepInstance_eq_set]
  exact Vector.getElem_set_self k.isLt

theorem Machine.getElem_stepInstance_ne {n : Nat} {j k : Fin n} (hne : j ≠ k) (p : Platform n) :
    (stepInstance k p)[j] = p[j] := by
  rw [stepInstance_eq_set]
  exact Vector.getElem_set_ne k.isLt j.isLt (Fin.val_ne_of_ne hne.symm)

/-- Settles O56: each of two steps writes one place, with a value it reads off that place alone. -/
theorem instancesDoNotInteract : Obligations.InstancesDoNotInteract := by
  refine ⟨fun n p j k hne => ⟨getElem_stepInstance_ne hne p, ?_⟩, fun n p k t e => ?_⟩
  · rw [stepInstance_eq_set j, stepInstance_eq_set k (stepInstance j p),
      getElem_stepInstance_ne hne, getElem_stepInstance_ne hne.symm, stepInstance_eq_set k,
      stepInstance_eq_set j]
    exact Vector.set_comm _ _ (Fin.val_ne_of_ne hne.symm)
  · rw [getElem_stepInstance_self]
    exact instanceAfter_of_next e

/-! ### Hosts that share an instance -/

/-- A host's turn is the machine's step when the turn is the host's. -/
theorem step_withHostTurn (s : State) : step { s with turns := .host :: s.turns } = hostTurn s :=
  step_host rfl

/-- A host whose next statement is no write leaves the engine as it was (R48). -/
theorem hostTurn_sameEngine {s t : State} (e : hostTurn s = .next t)
    (hwr : ∀ width off v rest, s.program ≠ .wr width off v :: rest) : SameEngine s t := by
  cases step_effect ((step_withHostTurn s).trans e) with
  | unchanged hs => exact hs
  | write hp _ =>
    obtain ⟨-, rest, hprog, -⟩ := hp
    exact absurd hprog (hwr _ _ _ rest)
  | round hturn => cases hturn
  | reset hturn => cases hturn

section

variable {n : Nat} {m m' : SharedEngine n} {h : Fin n} {t : State}

/-- A turn of host `h` gives a next state exactly when a sole host's with `h`'s view does, and it is that
state with every other host's view kept. -/
theorem stepShared_host_eq_next_iff : stepShared (.host h) m = .next m' ↔
    ∃ t, hostTurn (m.engine.withHost m.hosts[h]) = .next t ∧ m' = m.afterHost h t := by
  obtain ⟨t, ht, hm⟩ | ⟨f, hf, hm⟩ | ⟨r, hr, hm⟩ := stepShared_host_cases h m
  · rw [hm, ht]; simp [eq_comm]
  · rw [hm, hf]; simp
  · rw [hm, hr]; simp

theorem stepShared_host_eq_fault_iff {f : Fault} : stepShared (.host h) m = .fault f ↔
    hostTurn (m.engine.withHost m.hosts[h]) = .fault f := by
  obtain ⟨t, ht, hm⟩ | ⟨f', hf, hm⟩ | ⟨r, hr, hm⟩ := stepShared_host_cases h m
  · rw [hm, ht]; simp
  · rw [hm, hf]; simp
  · rw [hm, hr]; simp

theorem getElem_afterHost_self : (m.afterHost h t).hosts[h] = t.hostView := by
  rw [afterHost_hosts, if_pos rfl]

theorem getElem_afterHost_ne {j : Fin n} (hne : j ≠ h) : (m.afterHost h t).hosts[j] = m.hosts[j] := by
  rw [afterHost_hosts, if_neg hne.symm]

end

/-- Settles O57: a host's turn is the sole host's with the other views kept, and an engine turn and a reset
write the engine only. -/
theorem sharedHostsKeepTheirOwn : Obligations.SharedHostsKeepTheirOwn := by
  refine fun n m => ⟨fun h t e => ?_, fun h off => stepShared_host_eq_fault_iff, fun h m' e hwr => ?_,
    ⟨_, rfl, rfl, rfl⟩, ⟨_, rfl, .refl State.reset, rfl⟩⟩
  · exact ⟨_, stepShared_host_eq_next_iff.2 ⟨t, e, rfl⟩, .refl t, rfl, rfl, getElem_afterHost_self,
      fun j => getElem_afterHost_ne⟩
  · obtain ⟨t, ht, rfl⟩ := stepShared_host_eq_next_iff.1 e
    show SameEngine (m.engine.withHost m.hosts[h]) t
    exact hostTurn_sameEngine ht hwr

end Sys2Proof
end

section
/-!
Reset and the busy window (70_reset_and_hazards.md R230, R240): what a reset leaves, what a data or CMD
write does to the command in progress, and the host that keeps to the window.
-/

namespace Sys2Proof

open Sys2Proof.Machine

/-! ### Reset -/

/-- Settles O41: the reset state is a reset of itself, and a reset gives the invariant. -/
theorem invAtReset : Obligations.InvAtReset := inv_resetEngine State.reset

/-- Settles O45: a reset turn is answered by the engine of the reset state, whose fields are read off. -/
theorem resetEvent : Obligations.ResetEvent := by
  rintro s s0 ⟨ht, -⟩
  refine ⟨_, step_reset ht, fun i => ?_, fun j => ?_, ?_, ?_, rfl, rfl, rfl, rfl, rfl, rfl, rfl, rfl,
    .refl State.reset⟩
  · exact Vector.getElem_replicate i.isLt
  · exact Vector.getElem_replicate j.isLt
  · exact (by decide : configWord State.reset = 0#64)
  · exact (by decide : statusWord State.reset = 0#64)

/-! ### Writes while BUSY = 1 -/

theorem step_data_or_cmd_busy {s s0 : State} {off : Nat} {v : Word} (hb : s.busy = true)
    (h : HostPerforms s (.wr 8 off v) s0)
    (hoff : off = 0x200 ∨ (∃ i : Fin 25, off = 8 * i.val) ∨ ∃ j : Fin 17, off = 0x100 + 8 * j.val) :
    step s = .next { s0 with err := .busy } := by
  obtain rfl | ⟨i, rfl⟩ | ⟨j, rfl⟩ := hoff
  · exact step_cmd_busy h hb
  · obtain ⟨-, whenBusy⟩ := laneWrite s s0 i v h
    exact whenBusy hb
  · obtain ⟨writes, -⟩ := blkAccess s s0 j
    obtain ⟨-, whenBusy⟩ := writes v h
    exact whenBusy hb

/-- The engine's step neither reads nor writes ERR (R131, R207). -/
theorem engineStep_withErr (s : State) (c : ErrCode) :
    engineStep { s with err := c } = { engineStep s with err := c } := by
  obtain ⟨hb, e⟩ | ⟨hb, hr, e⟩ | ⟨hb, hr, e⟩ := engineStep_cases s
  · rw [e, engineStep_idle (by exact hb)]
  · rw [e, engineStep_last (by exact hb) (by exact hr)]; rfl
  · rw [e, engineStep_more (by exact hb) (by exact hr)]; rfl

/-- Settles O44: the rejected write changes ERR only, which the engine's step does not read. -/
theorem busyWritesIgnored : Obligations.BusyWritesIgnored := by
  intro s s0 t off v hb h hoff e
  obtain rfl : { s0 with err := .busy } = t :=
    Host.Outcome.next.inj ((step_data_or_cmd_busy hb h hoff).symm.trans e)
  exact ⟨rfl, engineStep_withErr s0 .busy⟩

/-! ### Statements that respect the busy window -/

section

variable {b c : Bool} {rest : List HostStmt}

/-- While BUSY may be 1 no statement up to the next WAIT depends on BUSY, so the statements respect the
window also from an idle engine. -/
theorem respectsBusy_false_of_true (p : List HostStmt) (h : respectsBusy true p = true) :
    respectsBusy false p = true := by
  induction p with
  | nil => rfl
  | cons st rest ih =>
    cases st with
    | wr width off v =>
      rw [respectsBusy] at h ⊢
      cases ha : accessReg width off with
      | none => rw [ha] at h; exact ih h
      | some r =>
        rw [ha] at h
        cases r with
        | lane | blk | cmd => cases h
        | status | config => exact ih h
    | rd var width off =>
      rw [respectsBusy] at h ⊢
      cases ha : accessReg width off with
      | none => rw [ha] at h; exact ih h
      | some r =>
        rw [ha] at h
        cases r with
        | lane => cases h
        | blk | cmd | status | config => exact ih h
    | wait => exact h
    | check => exact ih h

/-- What respects the window from a state whose BUSY may be 1 respects it when BUSY has fallen. -/
theorem respectsBusy_antitone (hle : c ≤ b) {p : List HostStmt} (h : respectsBusy b p = true) :
    respectsBusy c p = true := by
  cases c with
  | true => rwa [hle rfl] at h
  | false =>
    cases b with
    | true => exact respectsBusy_false_of_true p h
    | false => exact h

/-- Whether BUSY may be 1 after the write of `v` to the register `r`, as `respectsBusy` reckons it. -/
def mayBeBusyAfter (r : Reg) (v : Word) (b : Bool) : Bool := if r = .cmd then startsRounds v else b

theorem respectsBusy_wr {r : Reg} {v : Word}
    (h : respectsBusy b (.wr 8 (regOffset r) v :: rest) = true) :
    (b = true → r = .status ∨ r = .config) ∧ respectsBusy (mayBeBusyAfter r v b) rest = true := by
  rw [respectsBusy, accessReg_regOffset] at h
  cases r with
  | lane | blk | cmd =>
    obtain ⟨hidle, hrest⟩ := Bool.and_eq_true_iff.1 h
    exact ⟨fun hb => by simp [hb] at hidle, hrest⟩
  | status => exact ⟨fun _ => .inl rfl, h⟩
  | config => exact ⟨fun _ => .inr rfl, h⟩

theorem respectsBusy_rd {r : Reg} {var : HostVar}
    (h : respectsBusy b (.rd var 8 (regOffset r) :: rest) = true) :
    ((∃ i, r = .lane i) → b = false) ∧ respectsBusy b rest = true := by
  rw [respectsBusy, accessReg_regOffset] at h
  cases r with
  | lane =>
    obtain ⟨hidle, hrest⟩ := Bool.and_eq_true_iff.1 h
    exact ⟨fun _ => by simpa using hidle, hrest⟩
  | blk | cmd | status | config => exact ⟨nofun, h⟩

end

/-! ### What the window needs of each effect -/

theorem engineStep_busy_le (s : State) : (engineStep s).busy ≤ s.busy := by
  obtain ⟨-, e⟩ | ⟨-, -, e⟩ | ⟨-, -, e⟩ := engineStep_cases s
  · rw [e]
  · rw [e]; exact Bool.false_le _
  · rw [e]; exact le_rfl

section

variable {s s0 t : State} {r : Reg} {v : Word}

/-- An accepted command sets BUSY exactly if it has rounds (R130, R250). -/
theorem Machine.Accepted.busy_eq_startsRounds {i : Instr} (a : Accepted i s t) (hb : s.busy = false)
    (hd : decode v = .ok i) : t.busy = startsRounds v := by
  rw [startsRounds, hd]
  cases a with
  | nop | init => exact hb
  | absorb | final | permute | round => rfl

theorem WriteEffect.busy_le (w : WriteEffect r v s t)
    (hwindow : s.busy = true → r = .status ∨ r = .config) : t.busy ≤ mayBeBusyAfter r v s.busy := by
  cases w with
  | ignored _ _ _ hr => obtain rfl | rfl := hr <;> exact le_rfl
  | busy _ _ _ hb hstatus hconfig => exact absurd (hwindow hb) (by simp [hstatus, hconfig])
  | rejected _ _ c hb => exact hb.symm ▸ Bool.false_le _
  | lane | blk => exact le_rfl
  | command hb hd a => exact le_of_eq (a.busy_eq_startsRounds hb hd)

theorem WriteEffect.program_eq (w : WriteEffect r v s t) : t.program = s.program := by
  cases w with
  | ignored | busy | rejected | lane | blk => rfl
  | command _ _ a => cases a <;> rfl

theorem WriteEffect.draws_eq (w : WriteEffect r v s t) : t.draws = s.draws := by
  cases w with
  | ignored | busy | rejected | lane | blk => rfl
  | command _ _ a => cases a <;> rfl

/-- ERR becomes 6 by a write to CMD, LANE or BLK while BUSY = 1 only (R201). -/
theorem WriteEffect.err_busy_of_window (w : WriteEffect r v s t)
    (hwindow : s.busy = true → r = .status ∨ r = .config) (herr : t.err = .busy) : s.err = .busy := by
  cases w with
  | ignored | lane | blk => exact herr
  | busy _ _ _ hb hstatus hconfig => exact absurd (hwindow hb) (by simp [hstatus, hconfig])
  | rejected _ _ c _ _ hc => exact absurd herr hc
  | command _ _ a => cases a.err_ok.symm.trans herr

/-- A LANE read of an idle engine draws no free value (R43). -/
theorem Machine.afterRead_eq_self (h : (∃ i, r = .lane i) → s.busy = false) : afterRead r s = s := by
  cases r with
  | lane i => exact afterRead_lane_idle (h ⟨i, rfl⟩) i
  | blk | cmd | status | config => rfl

theorem HostPerforms.draws_eq {st : HostStmt} (h : HostPerforms s st s0) : s0.draws = s.draws := by
  obtain ⟨rest, -, rfl, -⟩ := h.state
  rfl

/-- The statement performed and those after it respect the window. -/
theorem HostPerforms.respectsBusy_stmt {st : HostStmt} (h : HostPerforms s st s0) (hs : Respectful s) :
    respectsBusy s.busy (st :: s0.program) = true := by
  obtain ⟨rest, hp, rfl, -⟩ := h.state
  exact hp ▸ hs

end

/-! ### A step of a host that keeps to the window -/

/-- From `s` to `t` the host goes on keeping to the window, draws no free value and is not rejected for
BUSY. -/
def KeepsToWindow (s t : State) : Prop :=
  Respectful t ∧ t.draws = s.draws ∧ (t.err = .busy → s.err = .busy)

section

variable {s s0 t : State}

theorem keepsToWindow_engineStep (hs : Respectful s) : KeepsToWindow s (engineStep (turnUsed s)) := by
  refine ⟨?_, engineStep_draws _, fun herr => (engineStep_err (turnUsed s)).symm.trans herr⟩
  rw [Respectful, engineStep_program]
  exact respectsBusy_antitone (engineStep_busy_le _) hs

theorem keepsToWindow_resetEngine (hs : Respectful s) :
    KeepsToWindow s (resetEngine (turnUsed s)) :=
  ⟨respectsBusy_antitone (Bool.false_le _) hs, rfl, nofun⟩

theorem keepsToWindow_write {r : Reg} {v : Word} (hs : Respectful s)
    (h : HostPerforms s (.wr 8 (regOffset r) v) s0) (w : WriteEffect r v s0 t) :
    KeepsToWindow s t := by
  have hprog := h.respectsBusy_stmt hs
  rw [← h.sameEngine.busy_eq] at hprog
  obtain ⟨hwindow, hrest⟩ := respectsBusy_wr hprog
  refine ⟨?_, w.draws_eq.trans h.draws_eq,
    fun herr => h.sameEngine.err_eq ▸ w.err_busy_of_window hwindow herr⟩
  rw [Respectful, w.program_eq]
  exact respectsBusy_antitone (w.busy_le hwindow) hrest

/-- A statement that only names a value read keeps to the window if those after it do at this BUSY. -/
theorem keepsToWindow_observe {st : HostStmt} (h : HostPerforms s st s0) (var : HostVar) (v : Word)
    (hrest : respectsBusy s.busy s0.program = true) : KeepsToWindow s (observe var v s0) :=
  ⟨by rwa [Respectful, observe_busy, h.sameEngine.busy_eq], h.draws_eq,
    fun herr => h.sameEngine.err_eq.symm.trans herr⟩

theorem keepsToWindow_read {r : Reg} {var : HostVar} (hs : Respectful s)
    (h : HostPerforms s (.rd var 8 (regOffset r)) s0) (v : Word) :
    KeepsToWindow s (observe var v (afterRead r s0)) := by
  obtain ⟨hidle, hrest⟩ := respectsBusy_rd (h.respectsBusy_stmt hs)
  rw [afterRead_eq_self fun hr => h.sameEngine.busy_eq.trans (hidle hr)]
  exact keepsToWindow_observe h var v hrest

/-- WAIT is used up with BUSY = 0 only, as `respectsBusy` assumes after it (R82). -/
theorem keepsToWindow_wait_idle (hs : Respectful s) (h : HostPerforms s .wait s0)
    (hb : s.busy = false) : KeepsToWindow s (readStatus s0) :=
  keepsToWindow_observe h _ _ (hb ▸ h.respectsBusy_stmt hs)

end

/-- Settles O43: each case of a step keeps to the window: BUSY rises by a command with rounds only, which
`respectsBusy` reckons with. -/
theorem respectfulHostNeverRejected : Obligations.RespectfulHostNeverRejected := by
  intro s t hs e
  obtain ⟨-, rfl⟩ | ⟨-, rfl⟩ | ⟨-, -, rfl⟩ | ⟨off, r, v, s0, hp, ha, hw⟩ |
    ⟨off, r, var, s0, hp, ha, rfl⟩ | ⟨s0, hp, ⟨-, rfl⟩ | ⟨hidle, rfl⟩⟩ |
    ⟨s0, hp, ⟨-, rfl⟩ | ⟨-, rfl⟩⟩ := step_cases e
  · exact keepsToWindow_engineStep hs
  · exact keepsToWindow_resetEngine hs
  · exact ⟨hs, rfl, id⟩
  · obtain ⟨-, rfl⟩ := accessReg_eq_some ha
    exact keepsToWindow_write hs hp (writeReg_effect hw)
  · obtain ⟨-, rfl⟩ := accessReg_eq_some ha
    exact keepsToWindow_read hs hp _
  · exact ⟨hs, rfl, id⟩
  · refine keepsToWindow_wait_idle hs hp ?_
    simpa [field_statusWord_busy] using hidle
  · exact ⟨rfl, rfl, id⟩
  · exact keepsToWindow_observe hp _ _ (hp.respectsBusy_stmt hs)

end Sys2Proof
end
